-- ==== Sys2Proof/Word.lean ====
section
/-! DEFINITION. The word types of the block: bytes and the 16-bit values built from them (R10, R21). -/

namespace Sys2Proof

/-- One byte, the smallest element of every stream and buffer (R10, R60). -/
abbrev Byte := BitVec 8

/-- A 16-bit value: a checksum or a DATAQ entry (R7 `CKS_BITS`, R42). -/
abbrev Half := BitVec 16

end Sys2Proof
end

