-- ==== Sys2Proof/Config.lean ====
section
/-! DEFINITION. The constants and policy parameters of 00_scope.md section 3 (R6 to R9), at the spec's values.
The literals are UNVERIFIED (unaudited, N3; log entry 10). The policies are the spec's decisions (log entry 9). -/

namespace Sys2Proof

/-- The start delimiter (R6 `DELIM`). -/
@[simp] abbrev Config.delim : Byte := 0x7E#8
/-- The escape marker (R6 `ESC`). -/
@[simp] abbrev Config.esc : Byte := 0x7D#8
/-- The byte XORed with an escaped byte (R6 `ESC_MASK`). -/
@[simp] abbrev Config.escMask : Byte := 0x20#8
/-- The reserved stop value, decimal 80 (R6 `STOP_VALUE`, D8). -/
@[simp] abbrev Config.stopValue : Byte := 80#8

/-- Header bytes of a full frame after unescaping (R7 `HDR_LEN`). -/
@[simp] abbrev Config.hdrLen : Nat := 8
/-- Header offset tested against the stop value (R7 `STOP_POS`). -/
@[simp] abbrev Config.stopPos : Nat := 2
/-- Header offset of the length byte (R7 `LEN_POS`). -/
@[simp] abbrev Config.lenPos : Nat := 3
/-- Subtracted from the length byte (R7 `LEN_BIAS`). -/
@[simp] abbrev Config.lenBias : Nat := 4
/-- Header offset of the 1-based channel number (R7 `CHAN_POS`). -/
@[simp] abbrev Config.chanPos : Nat := 4
/-- Subtracted from a wire channel number (R7 `CHAN_BIAS`). -/
@[simp] abbrev Config.chanBias : Int := 1
/-- First header offset covered by the stream checksum (R7 `CKS_START`). -/
@[simp] abbrev Config.cksStart : Nat := 2
/-- Payload bytes per sample (R7 `SAMPLE_BYTES`). -/
@[simp] abbrev Config.sampleBytes : Nat := 2
/-- Bytes of checksum prefix on a packet (R7 `CKS_PREFIX`). -/
@[simp] abbrev Config.cksPrefix : Nat := 2
/-- Raw bytes read after the stop value (R7 `STOP_TAIL`). -/
@[simp] abbrev Config.stopTail : Nat := 2

/-- The largest payload length and the depth of FD's payload buffer (R8 `PAY_MAX`). -/
@[simp] abbrev Config.payMax : Nat := 251
/-- The largest number of samples in one frame (R8 `SAMP_MAX`). -/
@[simp] abbrev Config.sampMax : Nat := 125
/-- The depth of ASM's buffer (R8 `ASM_DEPTH`). -/
@[simp] abbrev Config.asmDepth : Nat := 257

/-- R9 `UNESC_OP`: how an escape follower is recovered (D7). -/
inductive UnescOp where
  | xor
  | or
deriving DecidableEq, Repr

/-- R9 `NONE_MIDFRAME`: what a poll without a byte reports inside a frame (D4). -/
inductive NoneMidframe where
  | holdReportIdle
  | holdSilent
deriving DecidableEq, Repr

/-- R9 `LEN_UNDERFLOW`: the payload length for a length byte below 4 (D9). The value `fault` has no mechanism in the spec. -/
inductive LenUnderflow where
  | zero
  | wrap8
deriving DecidableEq, Repr

/-- R9 `ODD_PAYLOAD`: the unpaired last byte (D10). The value `fault` has no mechanism in the spec. -/
inductive OddPayload where
  | dropLast
deriving DecidableEq, Repr

/-- R9 `STRICT_CKS`: only `off` is specified (D14). -/
inductive StrictCks where
  | off
deriving DecidableEq, Repr

/-- R9 `STRAY_SIGN`: how a stray byte fills its 16-bit entry (D12). -/
inductive StraySign where
  | unsigned
  | signed
deriving DecidableEq, Repr

/-- The decided value of `UNESC_OP` (D7). -/
@[simp] abbrev Config.unescOp : UnescOp := .xor
/-- The decided value of `NONE_MIDFRAME` (D4). -/
@[simp] abbrev Config.noneMidframe : NoneMidframe := .holdReportIdle
/-- The decided value of `LEN_UNDERFLOW` (D9). -/
@[simp] abbrev Config.lenUnderflow : LenUnderflow := .zero
/-- The decided value of `ODD_PAYLOAD` (D10). -/
@[simp] abbrev Config.oddPayload : OddPayload := .dropLast
/-- The decided value of `STRICT_CKS` (D14). -/
@[simp] abbrev Config.strictCks : StrictCks := .off
/-- The decided value of `STRAY_SIGN` (D12). -/
@[simp] abbrev Config.straySign : StraySign := .unsigned

end Sys2Proof
end

