-- ==== Sys2Proof/Syntax.lean ====
section
/-! DEFINITION. The syntax of the block: the sequencer states of FD, the words its ports carry, and the 26 operations. -/

namespace Sys2Proof

/-- FD's sequencer state (R34). Code 7 is not a state (U20). -/
inductive FdState where
  | hunt
  | hdr
  | hdrEsc
  | stop0
  | stop1
  | pay
  | payEsc
deriving DecidableEq, Repr

/-- One event as a port carries it, before it is decoded (R50, R86, R87, R88). -/
inductive PortEvent where
  /-- `rst = 1` (R260). -/
  | rst
  /-- `fd_poll` with the 10-bit word `fd_ev` = abort, valid, byte (R86). -/
  | fdEv (w : BitVec 10)
  /-- `asm_in_valid` with the 9-bit word `asm_in` = last, byte (R87). -/
  | asmIn (w : BitVec 9)
  /-- `asm_out_ready = 1`, the pop handshake (R87). -/
  | asmOut
  /-- `ver_in_valid` with the 9-bit word `ver_in` = last, byte (R87). -/
  | verIn (w : BitVec 9)
  /-- `cks_in_valid` with the 9-bit word `cks_in` = clr, byte (R88). -/
  | cksIn (w : BitVec 9)
deriving DecidableEq, Repr

/-- One presentation of the environment: the input ports of R50 at one moment. A word stands where its valid (or poll) is 1. -/
structure Ports where
  rst    : Bool
  fdEv   : Option (BitVec 10)
  asmIn  : Option (BitVec 9)
  asmOut : Bool
  verIn  : Option (BitVec 9)
  cksIn  : Option (BitVec 9)
deriving DecidableEq, Repr

/-- The 26 operations of the block (30_encoding.md R92), one constructor per row of the operation table. -/
inductive Instr where
  /-- FD.HUNT.NONE (R187). -/
  | fdHuntNone
  /-- FD.HUNT.SOF (R185). -/
  | fdHuntSof
  /-- FD.HUNT.STRAY b (R186). -/
  | fdHuntStray (b : Byte)
  /-- FD.HDR.NONE (R190). -/
  | fdHdrNone
  /-- FD.HDR.ESC (R189). -/
  | fdHdrEsc
  /-- FD.HDR.LIT b (R188). -/
  | fdHdrLit (b : Byte)
  /-- FD.HDRESC.NONE (R192). -/
  | fdHdrEscNone
  /-- FD.HDRESC.ANY b (R191). -/
  | fdHdrEscAny (b : Byte)
  /-- FD.STOP0.NONE (R194). -/
  | fdStop0None
  /-- FD.STOP0.ANY b (R193). -/
  | fdStop0Any (b : Byte)
  /-- FD.STOP1.NONE (R196). -/
  | fdStop1None
  /-- FD.STOP1.ANY b (R195). -/
  | fdStop1Any (b : Byte)
  /-- FD.PAY.NONE (R199). -/
  | fdPayNone
  /-- FD.PAY.ESC (R198). -/
  | fdPayEsc
  /-- FD.PAY.LIT b (R197). -/
  | fdPayLit (b : Byte)
  /-- FD.PAYESC.NONE (R201). -/
  | fdPayEscNone
  /-- FD.PAYESC.ANY b (R200). -/
  | fdPayEscAny (b : Byte)
  /-- FD.ABORT (R202). -/
  | fdAbort
  /-- ASM.PUSH b (R131). -/
  | asmPush (b : Byte)
  /-- ASM.PUSHL b (R132). -/
  | asmPushL (b : Byte)
  /-- ASM.POP (R134). -/
  | asmPop
  /-- VER.PUSH b (R117). -/
  | verPush (b : Byte)
  /-- VER.PUSHL b (R118). -/
  | verPushL (b : Byte)
  /-- CKS.CLEAR (R114). -/
  | cksClear
  /-- CKS.ADD b (R115). -/
  | cksAdd (b : Byte)
  /-- RESET (R260). -/
  | reset
deriving DecidableEq, Repr

end Sys2Proof
end

