-- ==== Sys2Proof/WellFormed.lean ====
section
/-! DEFINITION. Which operations the map of R92 can select: the byte of a literal or stray operation is not the reserved
value that selects its neighbour in the same state. -/

namespace Sys2Proof

/-- The operand restrictions of R92: `FD.HUNT.STRAY b` has `b != 0x7E`, `FD.HDR.LIT b` and `FD.PAY.LIT b` have `b != 0x7D`. -/
def Instr.wellFormed : Instr → Bool
  | .fdHuntStray b => b != Config.delim
  | .fdHdrLit b => b != Config.esc
  | .fdPayLit b => b != Config.esc
  | .fdHuntNone | .fdHuntSof | .fdHdrNone | .fdHdrEsc | .fdHdrEscNone | .fdHdrEscAny _ | .fdStop0None | .fdStop0Any _
  | .fdStop1None | .fdStop1Any _ | .fdPayNone | .fdPayEsc | .fdPayEscNone | .fdPayEscAny _ | .fdAbort
  | .asmPush _ | .asmPushL _ | .asmPop | .verPush _ | .verPushL _ | .cksClear | .cksAdd _ | .reset => true

/-- The FD states in which the map of R92 selects an operation. The operations of the other units, `FD.ABORT` and `RESET`
are selected whatever FD's state is. -/
def Instr.selectedIn (st : FdState) : Instr → Bool
  | .fdHuntNone | .fdHuntSof | .fdHuntStray _ => st == .hunt
  | .fdHdrNone | .fdHdrEsc | .fdHdrLit _ => st == .hdr
  | .fdHdrEscNone | .fdHdrEscAny _ => st == .hdrEsc
  | .fdStop0None | .fdStop0Any _ => st == .stop0
  | .fdStop1None | .fdStop1Any _ => st == .stop1
  | .fdPayNone | .fdPayEsc | .fdPayLit _ => st == .pay
  | .fdPayEscNone | .fdPayEscAny _ => st == .payEsc
  | .fdAbort | .asmPush _ | .asmPushL _ | .asmPop | .verPush _ | .verPushL _ | .cksClear | .cksAdd _ | .reset => true

end Sys2Proof
end

