-- ==== Sys2Proof/Decode.lean ====
section
/-! DEFINITION. From a port's word to the operation it selects, and back (R86, R87, R88, R92, R93, R97).
Decoding is total and rejects nothing: "There is no illegal encoding and no trap on decode" (R95). -/

namespace Sys2Proof

/-- The byte of a 10-bit FD event word, bits 7 to 0 (R86). -/
def fdByte (w : BitVec 10) : Byte := w.extractLsb' 0 8

/-- The byte of a 9-bit push or CKS word, bits 7 to 0 (R87, R88). -/
def lowByte (w : BitVec 9) : Byte := w.extractLsb' 0 8

/-- The operation of a poll without a byte, by FD's state (R92 rows NONE). -/
def decodeNone : FdState → Instr
  | .hunt => .fdHuntNone
  | .hdr => .fdHdrNone
  | .hdrEsc => .fdHdrEscNone
  | .stop0 => .fdStop0None
  | .stop1 => .fdStop1None
  | .pay => .fdPayNone
  | .payEsc => .fdPayEscNone

/-- The operation of a received byte, by FD's state and the one reserved value that matters there (R92, R93, R94). -/
def decodeByte (st : FdState) (b : Byte) : Instr :=
  match st with
  | .hunt => if b = Config.delim then .fdHuntSof else .fdHuntStray b
  | .hdr => if b = Config.esc then .fdHdrEsc else .fdHdrLit b
  | .hdrEsc => .fdHdrEscAny b
  | .stop0 => .fdStop0Any b
  | .stop1 => .fdStop1Any b
  | .pay => if b = Config.esc then .fdPayEsc else .fdPayLit b
  | .payEsc => .fdPayEscAny b

/-- The operation an FD event word selects: `abort` first, then `valid`, then the state, then the byte (R86, R93). -/
def decodeFd (st : FdState) (w : BitVec 10) : Instr :=
  if w.getLsbD 9 then .fdAbort
  else if w.getLsbD 8 then decodeByte st (fdByte w)
  else decodeNone st

/-- The operation an ASM push word selects (R87); where the phase does not fit, its meaning holds it (R135). -/
def decodeAsmIn (w : BitVec 9) : Instr := if w.getLsbD 8 then .asmPushL (lowByte w) else .asmPush (lowByte w)

/-- The operation a VER push word selects (R87). -/
def decodeVerIn (w : BitVec 9) : Instr := if w.getLsbD 8 then .verPushL (lowByte w) else .verPush (lowByte w)

/-- The operation a CKS word selects (R88). -/
def decodeCksIn (w : BitVec 9) : Instr := if w.getLsbD 8 then .cksClear else .cksAdd (lowByte w)

/-- The operation a port's event selects while FD is in state `st` (R92). -/
def decode (st : FdState) : PortEvent → Instr
  | .rst => .reset
  | .fdEv w => decodeFd st w
  | .asmIn w => decodeAsmIn w
  | .asmOut => .asmPop
  | .verIn w => decodeVerIn w
  | .cksIn w => decodeCksIn w

/-- An FD event word from its fields (R86). -/
def fdWord (abort valid : Bool) (b : Byte) : BitVec 10 := (BitVec.ofBool abort ++ BitVec.ofBool valid) ++ b

/-- A 9-bit word from its flag (`last` or `clr`) and byte (R87, R88, R45). -/
def flagWord (flag : Bool) (b : Byte) : BitVec 9 := BitVec.ofBool flag ++ b

/-- The canonical event of an operation (R97): ignored bits are 0. -/
def encode : Instr → PortEvent
  | .fdHuntNone => .fdEv (fdWord false false 0)
  | .fdHuntSof => .fdEv (fdWord false true Config.delim)
  | .fdHuntStray b => .fdEv (fdWord false true b)
  | .fdHdrNone => .fdEv (fdWord false false 0)
  | .fdHdrEsc => .fdEv (fdWord false true Config.esc)
  | .fdHdrLit b => .fdEv (fdWord false true b)
  | .fdHdrEscNone => .fdEv (fdWord false false 0)
  | .fdHdrEscAny b => .fdEv (fdWord false true b)
  | .fdStop0None => .fdEv (fdWord false false 0)
  | .fdStop0Any b => .fdEv (fdWord false true b)
  | .fdStop1None => .fdEv (fdWord false false 0)
  | .fdStop1Any b => .fdEv (fdWord false true b)
  | .fdPayNone => .fdEv (fdWord false false 0)
  | .fdPayEsc => .fdEv (fdWord false true Config.esc)
  | .fdPayLit b => .fdEv (fdWord false true b)
  | .fdPayEscNone => .fdEv (fdWord false false 0)
  | .fdPayEscAny b => .fdEv (fdWord false true b)
  | .fdAbort => .fdEv (fdWord true false 0)
  | .asmPush b => .asmIn (flagWord false b)
  | .asmPushL b => .asmIn (flagWord true b)
  | .asmPop => .asmOut
  | .verPush b => .verIn (flagWord false b)
  | .verPushL b => .verIn (flagWord true b)
  | .cksClear => .cksIn (flagWord true 0)
  | .cksAdd b => .cksIn (flagWord false b)
  | .reset => .rst

/-- The canonical form of a port's event: the bits that R86 and R88 ignore are 0 (R97, U21). -/
def canonical : PortEvent → PortEvent
  | .fdEv w =>
    if w.getLsbD 9 then .fdEv (fdWord true false 0)
    else if w.getLsbD 8 then .fdEv w
    else .fdEv (fdWord false false 0)
  | .cksIn w => if w.getLsbD 8 then .cksIn (flagWord true 0) else .cksIn w
  | .rst => .rst
  | .asmIn w => .asmIn w
  | .asmOut => .asmOut
  | .verIn w => .verIn w

/-! ### The operation table's words

A word of spec/opcode_table.json names neither its port nor the selecting FD state, and rows share words. The reading below
is a DESIGN CHOICE (log entry 11): a row with event bits is read as an FD event word, the most specific row of the table first,
so 0x17D is FD.HDR.ESC and every other word is read in state HUNT; a row without event bits is RESET. -/

/-- The FD state in which the table's word is read (log entry 11). -/
def tableFdState (w : Nat) : FdState := if BitVec.ofNat 10 w = 0x17D#10 then .hdr else .hunt

/-- The port's event that the table's word stands for (log entry 11). -/
def tablePortEvent (nbits w : Nat) : PortEvent := if nbits ≤ 8 then .rst else .fdEv (BitVec.ofNat 10 w)

/-- The operation the decoder reads from a word of the operation table (log entry 11). -/
def decodeTableWord (nbits w : Nat) : Option Instr := some (decode (tableFdState w) (tablePortEvent nbits w))

end Sys2Proof
end

