-- ==== Sys2Proof/Machine/Operands.lean ====
section
/-! DEFINITION. The datapath functions: checksums, byte order, escaping, samples, channel ids and lengths
(40_checksum.md, 41_packet_assembler.md R130, 43_escape_and_sample.md, R91). -/

namespace Sys2Proof.Machine

/-! ### Byte order and checksum -/

/-- The high byte `v[15:8]` of a 16-bit value. -/
def hiByte (v : Half) : Byte := v.extractLsb' 8 8

/-- The low byte `v[7:0]` of a 16-bit value. -/
def loByte (v : Half) : Byte := v.extractLsb' 0 8

/-- `be16(v)`, high byte first (R112, R63). -/
def be16 (v : Half) : List Byte := [hiByte v, loByte v]

/-- `from_be16(a, b) = a * 256 + b` (R112, R63). -/
def fromBe16 (a b : Byte) : Half := a ++ b

/-- `zext_16(b)` (R11). -/
def zext16 (b : Byte) : Half := b.setWidth 16

/-- One addition of a checksum accumulator, the carry out of bit 15 discarded (R115, R117, R131). -/
def addByte (acc : Half) (b : Byte) : Half := acc + zext16 b

/-- `cksum16(p)`: the sum of the bytes as unsigned values, modulo 65536 (R110). -/
def cksum16 (p : List Byte) : Half := BitVec.ofNat 16 (p.map BitVec.toNat).sum

/-- A byte of a header by its offset. The operations ask only for a byte they have stored (R62), so the default reaches no
state and no output. -/
def hdrByte (hdr : List Byte) (i : Nat) : Byte := hdr.getD i 0

/-- `stream_cks_ok(hdr, pay)` (R113): advisory, over `header[2:] ++ payload`. -/
def streamCksOk (hdr pay : List Byte) : Bool :=
  cksum16 (hdr.drop Config.cksStart ++ pay) == fromBe16 (hdrByte hdr 0) (hdrByte hdr 1)

/-- The two error kinds of the command path (R231, R232). -/
inductive PathError where
  | integrityError
  | lengthError
deriving DecidableEq, Repr

/-- `verify(framed)` (R116): the payload, or the error kind. -/
def verify (framed : List Byte) : Except PathError (List Byte) :=
  match framed with
  | a :: b :: payload => if cksum16 payload = fromBe16 a b then .ok payload else .error .integrityError
  | [_] | [] => .error .lengthError

/-- `build_packet(c)` (R130). -/
def buildPacket (c : List Byte) : List Byte := be16 (cksum16 c) ++ c

/-! ### Escaping -/

/-- `esc1(b)` (R165). -/
def esc1 (b : Byte) : List Byte :=
  if b = Config.delim ∨ b = Config.esc then [Config.esc, b ^^^ Config.escMask] else [b]

/-- `escape(s)`, the reference encoder of the far-end device (R165, R85). -/
def escape : List Byte → List Byte
  | [] => []
  | b :: rest => esc1 b ++ escape rest

/-- The recovered byte of an escape pair under a value of `UNESC_OP` (R9, D7). -/
def unesc1Of (op : UnescOp) (f : Byte) : Byte :=
  match op with
  | .xor => f ^^^ Config.escMask
  | .or => f ||| Config.escMask

/-- `unesc1(f) = f XOR 0x20` for every follower (R166, C2). -/
def unesc1 (f : Byte) : Byte := unesc1Of Config.unescOp f

/-- The recovered bytes of a raw sequence, read from a point where an escape marker is pending or not (R167). -/
def unescapeFrom (pendingEsc : Bool) : List Byte → List Byte
  | [] => []
  | b :: rest =>
    if pendingEsc then unesc1 b :: unescapeFrom false rest
    else if b = Config.esc then unescapeFrom true rest
    else b :: unescapeFrom false rest

/-- `unescape(r)` (R167). -/
def unescape (r : List Byte) : List Byte := unescapeFrom false r

/-- Whether a raw sequence leaves an escape marker pending at its end (R167, R210). -/
def endsPending (pendingEsc : Bool) : List Byte → Bool
  | [] => pendingEsc
  | b :: rest => endsPending (!pendingEsc && b == Config.esc) rest

/-! ### Samples, channel ids, lengths -/

/-- `sdec16(hi, lo)` (R169). -/
def sdec16 (hi lo : Byte) : Int :=
  let v := (fromBe16 hi lo).toNat
  if v < 32768 then (v : Int) else (v : Int) - 65536

/-- `samples_of(pay)` under a value of `ODD_PAYLOAD` (R170, R9, D10). -/
def samplesOfWith (odd : OddPayload) : List Byte → List Int
  | hi :: lo :: rest => sdec16 hi lo :: samplesOfWith odd rest
  | [_] => match odd with
    | .dropLast => []
  | [] => []

/-- `samples_of(pay)` (R170). -/
def samplesOf (pay : List Byte) : List Int := samplesOfWith Config.oddPayload pay

/-- `chan_id(w) = w - 1`, without wrap-around (R171). -/
def chanId (w : Byte) : Int := (w.toNat : Int) - Config.chanBias

/-- The payload length for a length byte under a value of `LEN_UNDERFLOW` (R172, R9, D9). -/
def payloadLength (policy : LenUnderflow) (len : Byte) : Nat :=
  match policy with
  | .zero => len.toNat - Config.lenBias
  | .wrap8 => (len.toNat + 256 - Config.lenBias) % 256

/-- `ptarget(hdr)` (R172). -/
def ptarget (hdr : List Byte) : Nat := payloadLength Config.lenUnderflow (hdrByte hdr Config.lenPos)

/-- `is_stop(hdr, hlen)` (R173), with `hlen` the length of the list. -/
def isStop (hdr : List Byte) : Bool := hdr.length == 3 && hdrByte hdr Config.stopPos == Config.stopValue

/-! ### Queue entries -/

/-- A sample as a DATAQ entry, `s mod 65536` (R90). -/
def dataWord (s : Int) : BitVec 16 := BitVec.ofInt 16 s

/-- A stray byte as a DATAQ entry under a value of `STRAY_SIGN` (R9, D12). -/
def strayWordOf (sign : StraySign) (b : Byte) : BitVec 16 :=
  match sign with
  | .unsigned => zext16 b
  | .signed => b.signExtend 16

/-- A stray byte as a DATAQ entry, `zext_16(b)` (R90, R186). -/
def strayWord (b : Byte) : BitVec 16 := strayWordOf Config.straySign b

/-- A channel id as a CHANQ entry, `c mod 512` (R90). -/
def chanWord (c : Int) : BitVec 9 := BitVec.ofInt 9 c

/-- A packet byte as a TXQ entry, last and byte (R90, R45). -/
def txWord (last : Bool) (b : Byte) : BitVec 9 := BitVec.ofBool last ++ b

end Sys2Proof.Machine
end

