-- ==== Sys2Proof/Machine/State.lean ====
section
/-! DEFINITION. The state of the four units and of the environment (10_state.md), and the reasons a step can stop. -/

namespace Sys2Proof.Machine

/-- Unit CKS (R20). -/
structure Cks where
  /-- The running sum, modulo 65536 (R21). -/
  acc : Half
deriving DecidableEq, Repr

/-- `ver.cnt`: how many prefix bytes of the current buffer are in (R23). The 2-bit value 3 is unrepresentable (U20; log entry 8). -/
inductive VerCnt where
  | zero
  | one
  | two
deriving DecidableEq, Repr

/-- Unit VER (R22). -/
structure Ver where
  cnt : VerCnt
  /-- The expected checksum (R24). -/
  exp : Half
  /-- The running sum of the payload bytes (R25). -/
  sum : Half
deriving DecidableEq, Repr

/-- ASM's sequencer state (R27). -/
inductive AsmPhase where
  | load
  | emit
deriving DecidableEq, Repr

/-- Unit ASM (R26). The buffer is the list of its filled bytes, so `asm.len` is its length (R28, R29; log entry 6). -/
structure Asm where
  phase : AsmPhase
  /-- The command bytes in arrival order (R28). -/
  buf   : List Byte
  /-- Their sum modulo 65536 (R30). -/
  sum   : Half
  /-- The index of the next packet byte to emit (R31). Its 9 bits are the view `asmIdx` (log entry 6). -/
  idx   : Nat
  /-- The command being loaded has exceeded the buffer (R32). -/
  ovf   : Bool
deriving DecidableEq, Repr

/-- Unit FD (R33). Each buffer is the list of its filled bytes, so `fd.hlen` and `fd.plen` are lengths (R35 to R38; log entry 6). -/
structure Fd where
  state : FdState
  /-- The recovered header bytes of the frame in progress (R35). -/
  hdr   : List Byte
  /-- The recovered payload bytes of the frame in progress (R37). -/
  pay   : List Byte
deriving DecidableEq, Repr

/-- One VERQ record (R47). The 2-bit code 3 is never produced and unrepresentable (U20; log entry 8). -/
inductive Verdict where
  | ok
  | integrityError
  | lengthShort
deriving DecidableEq, Repr

/-- One ASMRQ record (R46). -/
inductive AsmStatus where
  | built
  | overflow
deriving DecidableEq, Repr

/-- The environment: its queues, which the block only appends to (R41), and its presentations (log entries 1 and 3). -/
structure Env where
  /-- MODEL'S OWN (log entry 1): what the environment will present, in order. -/
  pending : List Ports
  /-- MODEL'S OWN (log entry 3): the events a unit has turned away and left with the environment (R135). -/
  held  : List PortEvent
  /-- Samples and stray bytes, 16-bit words (R42). -/
  dataq : List (BitVec 16)
  /-- Channel ids, 9-bit two's complement words (R43). -/
  chanq : List (BitVec 9)
  /-- Result records, 12 bits laid out as R89 says (R44). -/
  resq  : List (BitVec 12)
  /-- Packet bytes, 9-bit words last, byte (R45). -/
  txq   : List (BitVec 9)
  /-- ASM's status records (R46). -/
  asmrq : List AsmStatus
  /-- VER's verdicts (R47). -/
  verq  : List Verdict
deriving DecidableEq, Repr

/-- The whole machine: four units with private state and the environment (R4). -/
structure State where
  cks : Cks
  ver : Ver
  asm : Asm
  fd  : Fd
  env : Env
deriving DecidableEq, Repr

/-- Why a step can stop with a fault. The spec's block never stops (R180, R277); each fault stands for a violated precondition
that the spec states, arises only in states that break the invariants of R31 and R40, and is safe (log entry 7). -/
inductive Fault where
  /-- Raised by `pushHdr`: a ninth header byte, against the precondition of R181 (`fd.hlen <= 7`). Safe. -/
  | headerOverrun
  /-- Raised by `pushPay`: a payload byte without room, against the precondition of R182. Safe. -/
  | payloadOverrun
  /-- Raised by `completeFrame`: a frame not fully collected, against the precondition of R183. Safe. -/
  | frameIncomplete
  /-- Raised by `ASM.POP`: a read at or beyond `asm.len`, which R62 says no rule makes. Safe. -/
  | packetIndex
deriving DecidableEq, Repr

/-- Why an instruction can be refused. No meaning of this model refuses anything. -/
inductive Refusal where
  /-- Answered by `exec` for an instruction without a meaning, by its mnemonic. Safe. No arm of `exec` uses it now. -/
  | notModelled (mnemonic : String)
deriving DecidableEq, Repr

/-- The reset value of CKS (R51). -/
def Cks.reset : Cks := { acc := 0 }
/-- The reset value of VER (R51, R260). -/
def Ver.reset : Ver := { cnt := .zero, exp := 0, sum := 0 }
/-- The reset value of ASM (R51, R260). -/
def Asm.reset : Asm := { phase := .load, buf := [], sum := 0, idx := 0, ovf := false }
/-- The reset value of FD (R51, R260). -/
def Fd.reset : Fd := { state := .hunt, hdr := [], pay := [] }
/-- The environment at its own reset: every queue empty (R41), nothing presented (log entry 1). -/
def Env.reset : Env :=
  { pending := [], held := [], dataq := [], chanq := [], resq := [], txq := [], asmrq := [], verq := [] }

/-- The machine right after reset (R51, R41). -/
def State.reset : State :=
  { cks := Cks.reset, ver := Ver.reset, asm := Asm.reset, fd := Fd.reset, env := Env.reset }

/-! ### Field updates

Each has one simp lemma per field in Sys2Proof/Laws/State.lean. -/

/-- Write CKS. -/
def State.setCks (s : State) (c : Cks) : State := { s with cks := c }
/-- Write VER. -/
def State.setVer (s : State) (v : Ver) : State := { s with ver := v }
/-- Write ASM. -/
def State.setAsm (s : State) (a : Asm) : State := { s with asm := a }
/-- Write FD. -/
def State.setFd (s : State) (f : Fd) : State := { s with fd := f }
/-- Replace what the environment will present. -/
def State.setPending (s : State) (ps : List Ports) : State := { s with env := { s.env with pending := ps } }
/-- Leave an event with the environment (R135). -/
def State.addHeld (s : State) (e : PortEvent) : State := { s with env := { s.env with held := s.env.held ++ [e] } }
/-- Append entries to DATAQ (R42). -/
def State.addData (s : State) (ds : List (BitVec 16)) : State := { s with env := { s.env with dataq := s.env.dataq ++ ds } }
/-- Append an entry to CHANQ (R43). -/
def State.addChan (s : State) (c : BitVec 9) : State := { s with env := { s.env with chanq := s.env.chanq ++ [c] } }
/-- Append a record to RESQ (R44). -/
def State.addRes (s : State) (r : BitVec 12) : State := { s with env := { s.env with resq := s.env.resq ++ [r] } }
/-- Append an entry to TXQ (R45). -/
def State.addTx (s : State) (w : BitVec 9) : State := { s with env := { s.env with txq := s.env.txq ++ [w] } }
/-- Append a record to ASMRQ (R46). -/
def State.addAsmr (s : State) (a : AsmStatus) : State := { s with env := { s.env with asmrq := s.env.asmrq ++ [a] } }
/-- Append a record to VERQ (R47). -/
def State.addVerr (s : State) (v : Verdict) : State := { s with env := { s.env with verq := s.env.verq ++ [v] } }

end Sys2Proof.Machine
end

