-- ==== Sys2Proof/Machine/Flags.lean ====
section
/-! DEFINITION. Flags and status codes: the RESQ record of R89 with its flags, and the codes of the enumerated records and
states (R23, R27, R34, R46, R47). -/

namespace Sys2Proof.Machine

/-- The result codes of the streaming path (R233). -/
inductive ResCode where
  | idle
  | frame
  | stray
  | stop
deriving DecidableEq, Repr

/-- The fields of a RESQ record (R89). -/
structure ResRecord where
  code   : ResCode
  cksOk  : Bool
  oddLen : Bool
  lenUf  : Bool
  /-- How many DATAQ entries the same step appended. -/
  n      : Nat
deriving DecidableEq, Repr

/-- The 2-bit value of a result code (R233). -/
def resCodeBits : ResCode → Nat
  | .idle => 0
  | .frame => 1
  | .stray => 2
  | .stop => 3

/-- `code*1024 + cks_ok*512 + odd_len*256 + len_uf*128 + n` (R89). -/
def resWord (r : ResRecord) : BitVec 12 :=
  BitVec.ofNat 12 (resCodeBits r.code * 1024 + r.cksOk.toNat * 512 + r.oddLen.toNat * 256 + r.lenUf.toNat * 128 + r.n)

/-- The result code of a 2-bit value: the field has no spare value (R233). -/
def resCodeOf (c : BitVec 2) : ResCode :=
  if c = 0#2 then .idle else if c = 1#2 then .frame else if c = 2#2 then .stray else .stop

/-- The fields of a record word, bit by bit (R89). -/
def resOfWord (w : BitVec 12) : ResRecord :=
  { code := resCodeOf (w.extractLsb' 10 2), cksOk := w.getLsbD 9, oddLen := w.getLsbD 8, lenUf := w.getLsbD 7,
    n := (w.extractLsb' 0 7).toNat }

/-- The record of a code without flags (R186, R187, R195). -/
def plainRecord (code : ResCode) (n : Nat) : ResRecord := { code := code, cksOk := false, oddLen := false, lenUf := false, n := n }

/-- `odd_len`: the payload length was odd (R89, R183). -/
def oddLenFlag (hdr : List Byte) : Bool := ptarget hdr % 2 == 1

/-- `len_uf(hdr) = (hdr[3] < 4)` (R172, R89). -/
def lenUfFlag (hdr : List Byte) : Bool := (hdrByte hdr Config.lenPos).toNat < Config.lenBias

/-- The code-1 record of a completed frame (R183). The three flags are computed independently (R239). -/
def frameRecord (hdr pay : List Byte) : ResRecord :=
  { code := .frame, cksOk := streamCksOk hdr pay, oddLen := oddLenFlag hdr, lenUf := lenUfFlag hdr,
    n := ptarget hdr / Config.sampleBytes }

/-- The 2-bit code of a verdict (R47). -/
def verdictCode : Verdict → BitVec 2
  | .ok => 0#2
  | .integrityError => 1#2
  | .lengthShort => 2#2

/-- The 1-bit code of an ASM status (R46). -/
def asmStatusCode : AsmStatus → BitVec 1
  | .built => 0#1
  | .overflow => 1#1

/-- The 2-bit value of `ver.cnt` (R23). -/
def verCntCode : VerCnt → BitVec 2
  | .zero => 0#2
  | .one => 1#2
  | .two => 2#2

/-- The 1-bit value of `asm.phase` (R27). -/
def asmPhaseCode : AsmPhase → BitVec 1
  | .load => 0#1
  | .emit => 1#1

/-- The 3-bit value of `fd.state`, seen only through the debug view (R34, R254). -/
def fdStateCode : FdState → BitVec 3
  | .hunt => 0#3
  | .hdr => 1#3
  | .hdrEsc => 2#3
  | .stop0 => 3#3
  | .stop1 => 4#3
  | .pay => 5#3
  | .payEsc => 6#3

end Sys2Proof.Machine
end

