-- ==== Sys2Proof/Machine/Ops.lean ====
section
/-! DEFINITION. The shared operations over the state: the queues and buffers, reporting a condition (what this hardware has
for taking an exception, R230, R240), the shared procedures of ASM, VER and FD, the fetch of the next event, and the views the
environment sees. -/

namespace Sys2Proof.Machine

/-- What a meaning answers. -/
abbrev Result := Host.Outcome State Fault Refusal

/-! ### Reporting a condition

Nothing is saved, no mode changes and there is no return (R240, R242): a report is one record appended to one queue. -/

/-- A condition of R230 with its record. -/
inductive Report where
  | result (r : ResRecord)
  | assembled (a : AsmStatus)
  | verdict (v : Verdict)
deriving DecidableEq, Repr

/-- Append a condition's record to its queue, in the step that detects it (R230, R241). -/
def State.report (s : State) : Report → State
  | .result r => s.addRes (resWord r)
  | .assembled a => s.addAsmr a
  | .verdict v => s.addVerr v

/-- The environment's event is turned away: nothing of the block changes and the event stays with the environment (R135). -/
def State.hold (s : State) (e : PortEvent) : State := s.addHeld e

/-! ### VER -/

/-- `ver_take(b)` (R117). -/
def verTake (v : Ver) (b : Byte) : Ver :=
  match v.cnt with
  | .zero => { v with exp := fromBe16 b (loByte v.exp), cnt := .one }
  | .one => { v with exp := fromBe16 (hiByte v.exp) b, cnt := .two }
  | .two => { v with sum := addByte v.sum b }

/-- The verdict on a buffer whose last byte has been taken (R118); shortness comes before the comparison (R239). -/
def verVerdict (v : Ver) : Verdict :=
  match v.cnt with
  | .zero | .one => .lengthShort
  | .two => if v.sum = v.exp then .ok else .integrityError

/-! ### ASM -/

/-- `asm_take(b)` (R131). -/
def asmTake (a : Asm) (b : Byte) : Asm :=
  if a.buf.length = Config.asmDepth then { a with ovf := true }
  else { a with buf := a.buf ++ [b], sum := addByte a.sum b }

/-- The packet byte at `asm.idx` (R134): the two checksum bytes, then the buffer. -/
def packetByte (a : Asm) : Option Byte :=
  match a.idx with
  | 0 => some (hiByte a.sum)
  | 1 => some (loByte a.sum)
  | k + 2 => a.buf[k]?

/-- Whether the next packet byte is the last one (R134). -/
def packetLast (a : Asm) : Bool := a.idx == a.buf.length + 1

/-- ASM after a pop (R134). -/
def asmAdvance (a : Asm) : Asm :=
  if packetLast a then { a with phase := .load, buf := [], sum := 0, idx := 0 } else { a with idx := a.idx + 1 }

/-! ### FD -/

/-- Write `fd.state`. -/
def State.setFdState (s : State) (st : FdState) : State := s.setFd { s.fd with state := st }

/-- `clear_frame()` (R184). -/
def clearFrame (s : State) : State := s.setFd Fd.reset

/-- The appends of a completed frame, in the order of R70: samples, channel id, record (R183). -/
def deliverFrame (s : State) : State :=
  ((s.addData ((samplesOf s.fd.pay).map dataWord)).addChan (chanWord (chanId (hdrByte s.fd.hdr Config.chanPos)))).report
    (.result (frameRecord s.fd.hdr s.fd.pay))

/-- `complete_frame()` (R183). -/
def completeFrame (s : State) : Result :=
  if s.fd.hdr.length = Config.hdrLen ∧ s.fd.pay.length = ptarget s.fd.hdr then .next (clearFrame (deliverFrame s))
  else .fault .frameIncomplete

/-- `push_hdr(v)` (R181); the stop test comes first (R239). -/
def pushHdr (v : Byte) (s : State) : Result :=
  if s.fd.hdr.length < Config.hdrLen then
    let s' := s.setFd { s.fd with hdr := s.fd.hdr ++ [v] }
    if isStop s'.fd.hdr then .next (s'.setFdState .stop0)
    else if s'.fd.hdr.length = Config.hdrLen then
      if ptarget s'.fd.hdr = 0 then completeFrame s' else .next (s'.setFdState .pay)
    else .next (s'.setFdState .hdr)
  else .fault .headerOverrun

/-- `push_pay(v)` (R182). -/
def pushPay (v : Byte) (s : State) : Result :=
  if s.fd.hdr.length = Config.hdrLen ∧ s.fd.pay.length < ptarget s.fd.hdr then
    let s' := s.setFd { s.fd with pay := s.fd.pay ++ [v] }
    if s'.fd.pay.length = ptarget s'.fd.hdr then completeFrame s' else .next (s'.setFdState .pay)
  else .fault .payloadOverrun

/-- The idle report of a poll without a byte (R187). -/
def reportIdle (s : State) : State := s.report (.result (plainRecord .idle 0))

/-- A poll without a byte inside a frame, under a value of `NONE_MIDFRAME` (R190, R9, D4). -/
def idleMidframeOf (policy : NoneMidframe) (s : State) : State :=
  match policy with
  | .holdReportIdle => reportIdle s
  | .holdSilent => s

/-- A poll without a byte inside a frame (R190): reported as idle, all state kept. -/
def idleMidframe (s : State) : State := idleMidframeOf Config.noneMidframe s

/-! ### The environment's presentations (log entries 1, 4 and 5) -/

/-- The idle ports: nothing presented. -/
def idlePorts : Ports := { rst := false, fdEv := none, asmIn := none, asmOut := false, verIn := none, cksIn := none }

/-- The presentation of one event alone. -/
def portsOf : PortEvent → Ports
  | .rst => { idlePorts with rst := true }
  | .fdEv w => { idlePorts with fdEv := some w }
  | .asmIn w => { idlePorts with asmIn := some w }
  | .asmOut => { idlePorts with asmOut := true }
  | .verIn w => { idlePorts with verIn := some w }
  | .cksIn w => { idlePorts with cksIn := some w }

/-- The event of a presentation that is processed first, with what is left of it. `rst` overrides every other event of the
presentation (R93, R260); units share no state, so their order is free (R73) and is fixed here as FD, ASM, VER, CKS.
DESIGN CHOICE (log entry 16): an FD word is taken whole. The byte of an abort word with `valid = 1`, which is not taken from RX
(R86, R202), is neither pending nor held afterwards; the environment presents it again in a word of its own. -/
def takePort (p : Ports) : Option (PortEvent × Ports) :=
  if p.rst then some (.rst, idlePorts)
  else match p.fdEv with
  | some w => some (.fdEv w, { p with fdEv := none })
  | none => match p.asmIn with
  | some w => some (.asmIn w, { p with asmIn := none })
  | none => if p.asmOut then some (.asmOut, { p with asmOut := false })
  else match p.verIn with
  | some w => some (.verIn w, { p with verIn := none })
  | none => match p.cksIn with
  | some w => some (.cksIn w, { p with cksIn := none })
  | none => none

/-- The presentations left when `p` is what remains of the first of them. -/
def putBack (p : Ports) (rest : List Ports) : List Ports := if p = idlePorts then rest else p :: rest

/-- The next event and the state with that event taken from the environment's presentations. -/
def fetch (s : State) : Option PortEvent × State :=
  match s.env.pending with
  | [] => (none, s)
  | p :: rest => match takePort p with
    | none => (none, s.setPending rest)
    | some (e, p') => (some e, s.setPending (putBack p' rest))

/-- The environment presents again what was turned away, before everything else (R135: a held event stays pending). -/
def State.representHeld (s : State) : State :=
  let s' := s.setPending (s.env.held.map portsOf ++ s.env.pending)
  { s' with env := { s'.env with held := [] } }

/-! ### Views (R29, R31, R36, R38, R39, R50, R254) -/

/-- `fd_busy`, 1 while a frame is in progress (R39). -/
def fdBusy (s : State) : Bool := s.fd.state != .hunt

/-- `fd_ptarget`, "meaningful only when `fd.hlen = 8`" (R39). DESIGN CHOICE (log entry 15): at every other fill length, which
the rule leaves open, the view answers no value. -/
def fdPtarget (s : State) : Option Nat := if s.fd.hdr.length = Config.hdrLen then some (ptarget s.fd.hdr) else none

/-- `fd.hlen` (R36). -/
def fdHlen (s : State) : BitVec 4 := BitVec.ofNat 4 s.fd.hdr.length

/-- `fd.plen` (R38). -/
def fdPlen (s : State) : BitVec 8 := BitVec.ofNat 8 s.fd.pay.length

/-- `asm.len` (R29). -/
def asmLen (s : State) : BitVec 9 := BitVec.ofNat 9 s.asm.buf.length

/-- `asm.idx`, 9 bits (R31). -/
def asmIdx (s : State) : BitVec 9 := BitVec.ofNat 9 s.asm.idx

/-- The combinational output ports of R50. The strobes of R50 that append to a queue are the appends themselves (log entry 13). -/
structure OutPorts where
  fdReady     : Bool
  fdBusy      : Bool
  asmInReady  : Bool
  asmOutValid : Bool
  /-- `asm_out`, the word a pop would deliver, while `asm_out_valid` is 1. -/
  asmOut      : Option (BitVec 9)
  verInReady  : Bool
  cksHi       : Byte
  cksLo       : Byte
deriving DecidableEq, Repr

/-- The output ports in a state (R50, R180, R135, R21). -/
def outPorts (s : State) : OutPorts :=
  { fdReady := true
    fdBusy := fdBusy s
    asmInReady := s.asm.phase == .load
    asmOutValid := s.asm.phase == .emit
    asmOut := if s.asm.phase = .emit then (packetByte s.asm).map (txWord (packetLast s.asm)) else none
    verInReady := true
    cksHi := hiByte s.cks.acc
    cksLo := loByte s.cks.acc }

end Sys2Proof.Machine
end

