-- ==== Sys2Proof/Machine/Assembler.lean ====
section
/-! DEFINITION. The meanings of unit ASM (41_packet_assembler.md). An event that does not fit the phase is held (R135). -/

namespace Sys2Proof.Machine

/-- ASM.PUSH b (R131); held in EMIT (R135). -/
def execAsmPush (b : Byte) (s : State) : Result :=
  match s.asm.phase with
  | .load => .next (s.setAsm (asmTake s.asm b))
  | .emit => .next (s.hold (encode (.asmPush b)))

/-- ASM.PUSHL b (R132, R136); held in EMIT (R135). -/
def execAsmPushL (b : Byte) (s : State) : Result :=
  match s.asm.phase with
  | .load =>
    let a := asmTake s.asm b
    if a.ovf then .next ((s.report (.assembled .overflow)).setAsm { a with buf := [], sum := 0, ovf := false })
    else .next ((s.report (.assembled .built)).setAsm { a with phase := .emit, idx := 0 })
  | .emit => .next (s.hold (encode (.asmPushL b)))

/-- ASM.POP (R134); held in LOAD (R135). -/
def execAsmPop (s : State) : Result :=
  match s.asm.phase with
  | .load => .next (s.hold (encode .asmPop))
  | .emit => match packetByte s.asm with
    | some b => .next ((s.addTx (txWord (packetLast s.asm) b)).setAsm (asmAdvance s.asm))
    | none => .fault .packetIndex

end Sys2Proof.Machine
end

