-- ==== Sys2Proof/Machine/Checksum.lean ====
section
/-! DEFINITION. The meanings of units CKS and VER (40_checksum.md). -/

namespace Sys2Proof.Machine

/-- CKS.CLEAR (R114). -/
def execCksClear (s : State) : Result := .next (s.setCks { acc := 0 })

/-- CKS.ADD b (R115). -/
def execCksAdd (b : Byte) (s : State) : Result := .next (s.setCks { acc := addByte s.cks.acc b })

/-- VER.PUSH b (R117). -/
def execVerPush (b : Byte) (s : State) : Result := .next (s.setVer (verTake s.ver b))

/-- VER.PUSHL b (R118): one verdict, and VER in its reset state whatever it is. -/
def execVerPushL (b : Byte) (s : State) : Result :=
  .next ((s.report (.verdict (verVerdict (verTake s.ver b)))).setVer Ver.reset)

end Sys2Proof.Machine
end

