-- ==== Sys2Proof/Machine/FrameDecoder.lean ====
section
/-! DEFINITION. The meanings of unit FD (44_frame_decoder.md): each is its rule's own pseudocode. Which of them an event selects
is the decoder's work (R92, log entry 12). -/

namespace Sys2Proof.Machine

/-- FD.HUNT.NONE (R187). -/
def execFdHuntNone (s : State) : Result := .next (reportIdle s)

/-- FD.HUNT.SOF (R185): the delimiter is stored nowhere. -/
def execFdHuntSof (s : State) : Result := .next (s.setFdState .hdr)

/-- FD.HUNT.STRAY b (R186). -/
def execFdHuntStray (b : Byte) (s : State) : Result :=
  .next ((s.addData [strayWord b]).report (.result (plainRecord .stray 1)))

/-- FD.HDR.NONE (R190). -/
def execFdHdrNone (s : State) : Result := .next (idleMidframe s)

/-- FD.HDR.ESC (R189): the marker is stored nowhere. -/
def execFdHdrEsc (s : State) : Result := .next (s.setFdState .hdrEsc)

/-- FD.HDR.LIT b (R188). -/
def execFdHdrLit (b : Byte) (s : State) : Result := pushHdr b s

/-- FD.HDRESC.NONE (R192). -/
def execFdHdrEscNone (s : State) : Result := .next (idleMidframe s)

/-- FD.HDRESC.ANY b (R191). -/
def execFdHdrEscAny (b : Byte) (s : State) : Result := pushHdr (unesc1 b) s

/-- FD.STOP0.NONE (R194). -/
def execFdStop0None (s : State) : Result := .next (idleMidframe s)

/-- FD.STOP0.ANY b (R193): the first tail byte is discarded. -/
def execFdStop0Any (_b : Byte) (s : State) : Result := .next (s.setFdState .stop1)

/-- FD.STOP1.NONE (R196). -/
def execFdStop1None (s : State) : Result := .next (idleMidframe s)

/-- FD.STOP1.ANY b (R195): the second tail byte is the 1-based channel number, read raw. -/
def execFdStop1Any (b : Byte) (s : State) : Result :=
  .next (clearFrame ((s.addChan (chanWord (chanId b))).report (.result (plainRecord .stop 0))))

/-- FD.PAY.NONE (R199). -/
def execFdPayNone (s : State) : Result := .next (idleMidframe s)

/-- FD.PAY.ESC (R198). -/
def execFdPayEsc (s : State) : Result := .next (s.setFdState .payEsc)

/-- FD.PAY.LIT b (R197). -/
def execFdPayLit (b : Byte) (s : State) : Result := pushPay b s

/-- FD.PAYESC.NONE (R201). -/
def execFdPayEscNone (s : State) : Result := .next (idleMidframe s)

/-- FD.PAYESC.ANY b (R200). -/
def execFdPayEscAny (b : Byte) (s : State) : Result := pushPay (unesc1 b) s

/-- FD.ABORT (R202): no queue is touched. -/
def execFdAbort (s : State) : Result := .next (clearFrame s)

end Sys2Proof.Machine
end

