-- ==== Sys2Proof/Machine/System.lean ====
section
/-! DEFINITION. The meaning of RESET (70_reset_and_hazards.md R260). -/

namespace Sys2Proof.Machine

/-- RESET (R260): every unit at its reset value; no queue is touched (R262). -/
def execReset (s : State) : Result := .next ((((s.setCks Cks.reset).setVer Ver.reset).setAsm Asm.reset).setFd Fd.reset)

end Sys2Proof.Machine
end

