-- ==== Sys2Proof/Machine/Dispatch.lean ====
section
/-! DEFINITION. One arm per operation, each one call of its meaning (R92). -/

namespace Sys2Proof.Machine

/-- The effect of one operation. -/
def exec (i : Instr) (s : State) : Host.Outcome State Fault Refusal :=
  match i with
  | .fdHuntNone => Sys2Proof.Machine.execFdHuntNone s
  | .fdHuntSof => Sys2Proof.Machine.execFdHuntSof s
  | .fdHuntStray b => Sys2Proof.Machine.execFdHuntStray b s
  | .fdHdrNone => Sys2Proof.Machine.execFdHdrNone s
  | .fdHdrEsc => Sys2Proof.Machine.execFdHdrEsc s
  | .fdHdrLit b => Sys2Proof.Machine.execFdHdrLit b s
  | .fdHdrEscNone => Sys2Proof.Machine.execFdHdrEscNone s
  | .fdHdrEscAny b => Sys2Proof.Machine.execFdHdrEscAny b s
  | .fdStop0None => Sys2Proof.Machine.execFdStop0None s
  | .fdStop0Any b => Sys2Proof.Machine.execFdStop0Any b s
  | .fdStop1None => Sys2Proof.Machine.execFdStop1None s
  | .fdStop1Any b => Sys2Proof.Machine.execFdStop1Any b s
  | .fdPayNone => Sys2Proof.Machine.execFdPayNone s
  | .fdPayEsc => Sys2Proof.Machine.execFdPayEsc s
  | .fdPayLit b => Sys2Proof.Machine.execFdPayLit b s
  | .fdPayEscNone => Sys2Proof.Machine.execFdPayEscNone s
  | .fdPayEscAny b => Sys2Proof.Machine.execFdPayEscAny b s
  | .fdAbort => Sys2Proof.Machine.execFdAbort s
  | .asmPush b => Sys2Proof.Machine.execAsmPush b s
  | .asmPushL b => Sys2Proof.Machine.execAsmPushL b s
  | .asmPop => Sys2Proof.Machine.execAsmPop s
  | .verPush b => Sys2Proof.Machine.execVerPush b s
  | .verPushL b => Sys2Proof.Machine.execVerPushL b s
  | .cksClear => Sys2Proof.Machine.execCksClear s
  | .cksAdd b => Sys2Proof.Machine.execCksAdd b s
  | .reset => Sys2Proof.Machine.execReset s

end Sys2Proof.Machine
end

