-- ==== Sys2Proof/Machine/Step.lean ====
section
/-! DEFINITION. One step: one event of the environment, processed by one unit (R12). -/

namespace Sys2Proof.Machine

/-- Take the next event, decode it in FD's present state and run the operation it selects (R12, R92). Where nothing is presented
the block waits (R277; log entry 2). -/
def step (s : State) : Host.Outcome State Fault Refusal :=
  match fetch s with
  | (none, s') => .next s'
  | (some e, s') => exec (decode s'.fd.state e) s'

/-- The state in which the next step runs the operation table's word: the word is presented alone, before everything else, and
FD is put into the state that selects its row where it is in another one (log entry 11). -/
def State.withFetchWord (s : State) (nbits w : Nat) : State :=
  let s' := s.setPending (portsOf (tablePortEvent nbits w) :: s.env.pending)
  if (decode (tableFdState w) (tablePortEvent nbits w)).selectedIn s.fd.state then s' else s'.setFdState (tableFdState w)

end Sys2Proof.Machine
end

