-- ==== Sys2Proof/Machine/Exchange.lean ====
section
/-! DEFINITION. The response half of a command exchange, a pure function of the host software (42_response_contract.md). R5
leaves it out of the block; it is modelled as R150 suggests, for end-to-end statements. -/

namespace Sys2Proof.Machine

/-- The byte size of a field slot (R154). -/
inductive SlotSize where
  | one
  | two
  | four
deriving DecidableEq, Repr

/-- A typed slot of a field descriptor (R154). -/
structure Slot where
  signed : Bool
  size   : SlotSize
deriving DecidableEq, Repr

/-- Bytes of a slot (R151). -/
def slotBytes (s : Slot) : Nat :=
  match s.size with
  | .one => 1
  | .two => 2
  | .four => 4

/-- `sizeof(desc)` (R151). -/
def descSize (desc : List Slot) : Nat := (desc.map slotBytes).sum

/-- `expected_len` (R151). -/
def expectedLen (desc : List Slot) : Nat := 4 + descSize desc

/-- A big-endian unsigned value (R154, R63). -/
def bigEndian (bs : List Byte) : Nat := bs.foldl (fun acc b => acc * 256 + b.toNat) 0

/-- The value of a slot's bytes: unsigned, or two's complement of the slot's width (R154). -/
def slotValue (s : Slot) (bs : List Byte) : Int :=
  let v := bigEndian bs
  if s.signed ∧ 2 ^ (8 * slotBytes s - 1) ≤ v then (v : Int) - 2 ^ (8 * slotBytes s) else v

/-- The typed fields, in the descriptor's order (R154). -/
def decodeFields : List Slot → List Byte → List Int
  | [], _ => []
  | s :: rest, bs => slotValue s (bs.take (slotBytes s)) :: decodeFields rest (bs.drop (slotBytes s))

/-- The values a slot can hold: 0 to `256^k - 1`, or the two's complement range of its `8k` bits (R154). -/
abbrev slotHolds (s : Slot) (v : Int) : Prop :=
  if s.signed then -2 ^ (8 * slotBytes s - 1) ≤ v ∧ v < 2 ^ (8 * slotBytes s - 1) else 0 ≤ v ∧ v < 2 ^ (8 * slotBytes s)

/-- The bytes of a value in a slot, most significant byte first (R154): what the device at the far end sends. -/
def slotLayout (s : Slot) (v : Int) : List Byte :=
  match s.size with
  | .one => [BitVec.ofInt 8 v]
  | .two => [BitVec.ofInt 8 (v / 256), BitVec.ofInt 8 v]
  | .four => [BitVec.ofInt 8 (v / 16777216), BitVec.ofInt 8 (v / 65536), BitVec.ofInt 8 (v / 256), BitVec.ofInt 8 v]

/-- The field bytes of a response whose slots carry the given values, in the descriptor's order (R154). -/
def fieldsLayout : List (Slot × Int) → List Byte
  | [] => []
  | (s, v) :: rest => slotLayout s v ++ fieldsLayout rest

/-- `check_response(bytes_read, desc)` with the order of checks of R157. -/
def checkResponse (bytesRead : List Byte) (desc : List Slot) : Except PathError (List Int) :=
  if bytesRead.length < expectedLen desc then .error .lengthError
  else match verify (bytesRead.take (expectedLen desc)) with
    | .error e => .error e
    | .ok payload =>
      if (payload.getD 1 0).toNat = expectedLen desc - 4 then .ok (decodeFields desc (payload.drop 2))
      else .error .lengthError

end Sys2Proof.Machine
end

