-- ==== Sys2Proof/Machine/Trace.lean ====
section
/-! DEFINITION. The trace notation of 30_encoding.md R97 and its pseudo-instructions R98, as presentations of the environment. -/

namespace Sys2Proof.Machine

/-- `RX hh` (R97). -/
def traceRx (b : Byte) : Ports := portsOf (.fdEv (fdWord false true b))
/-- `RXN` (R97). -/
def traceRxn : Ports := portsOf (.fdEv (fdWord false false 0))
/-- `ABORT` (R97). -/
def traceAbort : Ports := portsOf (.fdEv (fdWord true false 0))
/-- `APUSH hh` (R97). -/
def traceApush (b : Byte) : Ports := portsOf (.asmIn (flagWord false b))
/-- `APUSHL hh` (R97). -/
def traceApushL (b : Byte) : Ports := portsOf (.asmIn (flagWord true b))
/-- `APOP` (R97). -/
def traceApop : Ports := portsOf .asmOut
/-- `VPUSH hh` (R97). -/
def traceVpush (b : Byte) : Ports := portsOf (.verIn (flagWord false b))
/-- `VPUSHL hh` (R97). -/
def traceVpushL (b : Byte) : Ports := portsOf (.verIn (flagWord true b))
/-- `CCLR` (R97). -/
def traceCclr : Ports := portsOf (.cksIn (flagWord true 0))
/-- `CADD hh` (R97). -/
def traceCadd (b : Byte) : Ports := portsOf (.cksIn (flagWord false b))
/-- `RESET` (R97). -/
def traceReset : Ports := portsOf .rst

/-- `RXS h0 h1 ...` (R98). -/
def traceRxs (bs : List Byte) : List Ports := bs.map traceRx

/-- `FRAME(hdr; pay)` (R98). -/
def traceFrame (hdr pay : List Byte) : List Ports := traceRx Config.delim :: traceRxs (escape (hdr ++ pay))

/-- `GOODFRAME(h2..h7; pay)` (R98). -/
def traceGoodFrame (tail pay : List Byte) : List Ports := traceFrame (be16 (cksum16 (tail ++ pay)) ++ tail) pay

/-- `STOPF(h0 h1; t0 t1)` (R98). -/
def traceStopF (h0 h1 t0 t1 : Byte) : List Ports :=
  traceRx Config.delim :: (traceRxs (escape [h0, h1]) ++ [traceRx Config.stopValue, traceRx t0, traceRx t1])

/-- A byte sequence pushed with its last byte marked. -/
def traceMarked (push pushLast : Byte → Ports) : List Byte → List Ports
  | [] => []
  | [b] => [pushLast b]
  | b :: c :: rest => push b :: traceMarked push pushLast (c :: rest)

/-- `CMD b0 ... bk` (R98). -/
def traceCmd (bs : List Byte) : List Ports := traceMarked traceApush traceApushL bs

/-- `VBUF b0 ... bk` (R98). -/
def traceVbuf (bs : List Byte) : List Ports := traceMarked traceVpush traceVpushL bs

/-- `DRAIN` (R98): as many pops as the packet being emitted still has bytes. -/
def traceDrain (s : State) : List Ports := List.replicate (s.asm.buf.length + 2 - s.asm.idx) traceApop

/-- `CSUM b0 ... bk` (R98). -/
def traceCsum (bs : List Byte) : List Ports := traceCclr :: bs.map traceCadd

end Sys2Proof.Machine
end

