-- ==== Sys2Proof/Machine/Session.lean ====
section
/-! DEFINITION. The environment's side of the streaming path: starting a session (R265), the source's invocation (R213) and
the pairing of the three output queues (R225). R5 leaves the session itself out of the block. -/

namespace Sys2Proof.Machine

/-- The environment's duty at the start of a session (R265): the bytes still buffered for FD are discarded and `FD.ABORT` is
presented first. -/
def State.startSession (s : State) : State :=
  s.setPending (traceAbort :: s.env.pending.map (fun p => { p with fdEv := none }))

/-- One invocation of the source's routine, as the run of steps up to and including the first that appends a RESQ record (R213),
within `fuel` steps. DESIGN CHOICE (log entry 17): where no record comes within them, because the steps are used up or nothing
more is presented, the invocation has not completed and answers `none`; R213 defines only the run up to the record. -/
def invoke : Nat → State → Option Result
  | 0, _ => none
  | fuel + 1, s =>
    match step s with
    | .next t => if s.env.resq.length < t.env.resq.length then some (.next t) else invoke fuel t
    | .fault f => some (.fault f)
    | .refused r => some (.refused r)

/-- What one RESQ record accounts for (R225). -/
inductive StreamItem where
  | idle
  | frame (cksOk oddLen lenUf : Bool) (channel : Int) (samples : List Int)
  | stray (value : Nat)
  | stop (channel : Int)
deriving DecidableEq, Repr

/-- Walk RESQ and hand each record its DATAQ and CHANQ entries (R225, R44); none where the queues do not fit together. -/
def pairUp : List (BitVec 12) → List (BitVec 16) → List (BitVec 9) → Option (List StreamItem)
  | [], [], [] => some []
  | [], _, _ => none
  | w :: ws, ds, cs =>
    let r := resOfWord w
    match r.code with
    | .idle => (pairUp ws ds cs).map (.idle :: ·)
    | .stray => match ds with
      | d :: ds' => (pairUp ws ds' cs).map (.stray d.toNat :: ·)
      | [] => none
    | .stop => match cs with
      | c :: cs' => (pairUp ws ds cs').map (.stop c.toInt :: ·)
      | [] => none
    | .frame => match cs with
      | c :: cs' =>
        if r.n ≤ ds.length then
          (pairUp ws (ds.drop r.n) cs').map (.frame r.cksOk r.oddLen r.lenUf c.toInt ((ds.take r.n).map BitVec.toInt) :: ·)
        else none
      | [] => none

/-- A consumer's own strict mode: frames whose checksum did not match are dropped (R234). -/
def strictItems (items : List StreamItem) : List StreamItem :=
  items.filter fun
    | .frame ok _ _ _ _ => ok
    | .idle | .stray _ | .stop _ => true

end Sys2Proof.Machine
end

