-- ==== Sys2Proof/Safety.lean ====
section
/-! DEFINITION. What a sound state of the block is, in the terms the statements use. -/

namespace Sys2Proof.Machine

/-- The state invariant of FD, the table of R40. -/
abbrev FdInv (f : Fd) : Prop :=
  (f.state = .hunt → f.hdr.length = 0 ∧ f.pay.length = 0) ∧
  ((f.state = .hdr ∨ f.state = .hdrEsc) →
    f.hdr.length ≤ 7 ∧ f.pay.length = 0 ∧ (3 ≤ f.hdr.length → hdrByte f.hdr 2 ≠ Config.stopValue)) ∧
  ((f.state = .stop0 ∨ f.state = .stop1) →
    f.hdr.length = 3 ∧ f.pay.length = 0 ∧ hdrByte f.hdr 2 = Config.stopValue) ∧
  ((f.state = .pay ∨ f.state = .payEsc) →
    f.hdr.length = 8 ∧ f.pay.length < ptarget f.hdr ∧ hdrByte f.hdr 2 ≠ Config.stopValue ∧ 5 ≤ (hdrByte f.hdr 3).toNat)

/-- What R28 to R32 say of ASM's elements in every phase. -/
abbrev AsmInv (a : Asm) : Prop :=
  a.buf.length ≤ 257 ∧ a.sum = cksum16 a.buf ∧
  (a.phase = .load → a.idx = 0) ∧
  (a.phase = .emit → 1 ≤ a.buf.length ∧ a.idx ≤ a.buf.length + 1 ∧ a.ovf = false) ∧
  (a.ovf = true → a.buf.length = 257)

/-- What R23 to R25 say of VER before both prefix bytes are in: nothing has been summed, and a byte not yet seen is 0. -/
abbrev VerInv (v : Ver) : Prop :=
  (v.cnt = .zero → v.exp = 0 ∧ v.sum = 0) ∧ (v.cnt = .one → loByte v.exp = 0 ∧ v.sum = 0)

/-- The units' invariants together. -/
abbrev UnitsInv (s : State) : Prop := FdInv s.fd ∧ AsmInv s.asm ∧ VerInv s.ver

/-- A record that can occur (R89): idle, stray, stop, or a frame with at most 125 samples, of an even number of bytes where the
length byte was below 4. -/
abbrev LegalRecord (w : BitVec 12) : Prop :=
  w = 0x000#12 ∨ w = 0x801#12 ∨ w = 0xC00#12 ∨
  ((resOfWord w).code = .frame ∧ (resOfWord w).n ≤ Config.sampMax ∧
    ((resOfWord w).lenUf = true → (resOfWord w).oddLen = false ∧ (resOfWord w).n = 0))

/-- Whether a record comes with a CHANQ entry (R43, R89): a completed frame or a stop frame. -/
def carriesChannel (w : BitVec 12) : Bool := (resOfWord w).code == .frame || (resOfWord w).code == .stop

/-- The queues fit together: RESQ holds records that can occur, their `n` fields add up to DATAQ's length and one CHANQ entry in
-1 to 254 stands for each frame and each stop (R43, R44, R89). -/
abbrev QueueInv (e : Env) : Prop :=
  (∀ w ∈ e.resq, LegalRecord w) ∧
  e.dataq.length = (e.resq.map (fun w => (resOfWord w).n)).sum ∧
  e.chanq.length = e.resq.countP carriesChannel ∧
  (∀ c ∈ e.chanq, -1 ≤ c.toInt ∧ c.toInt ≤ 254)

/-- The end of a run (R277): the environment has no further event to present. No presentation left carries one, and none has
been turned away, since a held event "stays pending at the environment" (00_scope.md, glossary). -/
abbrev RunEnded (s : State) : Prop := (∀ p ∈ s.env.pending, takePort p = none) ∧ s.env.held = []

/-- A clean end of a run (R277): the run ended and every unit is between two jobs. -/
abbrev CleanEnd (s : State) : Prop :=
  RunEnded s ∧ s.fd.state = .hunt ∧ s.asm.phase = .load ∧ s.asm.buf.length = 0 ∧ s.ver.cnt = .zero

/-- A run without an error (R242): VERQ holds only OK and ASMRQ only BUILT. -/
abbrev NoErrorReported (e : Env) : Prop := (∀ v ∈ e.verq, v = .ok) ∧ (∀ a ∈ e.asmrq, a = .built)

/-- The queues of `e` with the entries of `d` at their tails (R41), and the presentations of `d`. -/
def appendEnv (e d : Env) : Env :=
  { pending := d.pending
    held := e.held ++ d.held
    dataq := e.dataq ++ d.dataq
    chanq := e.chanq ++ d.chanq
    resq := e.resq ++ d.resq
    txq := e.txq ++ d.txq
    asmrq := e.asmrq ++ d.asmrq
    verq := e.verq ++ d.verq }

/-- `k` steps lead from `s` to `t` without a stop. -/
abbrev RunsTo (k : Nat) (s t : State) : Prop := Host.Core.run Sys2Proof.core k s = .next t

/-- The agents that process an operation (R4, R92). -/
inductive BlockUnit where
  | cks
  | ver
  | asm
  | fd
  | all
deriving DecidableEq, Repr

/-- The unit that processes an operation (the unit column of R92). -/
def unitOf : Instr → BlockUnit
  | .fdHuntNone | .fdHuntSof | .fdHuntStray _ | .fdHdrNone | .fdHdrEsc | .fdHdrLit _ | .fdHdrEscNone | .fdHdrEscAny _
  | .fdStop0None | .fdStop0Any _ | .fdStop1None | .fdStop1Any _ | .fdPayNone | .fdPayEsc | .fdPayLit _ | .fdPayEscNone
  | .fdPayEscAny _ | .fdAbort => .fd
  | .asmPush _ | .asmPushL _ | .asmPop => .asm
  | .verPush _ | .verPushL _ => .ver
  | .cksClear | .cksAdd _ => .cks
  | .reset => .all

end Sys2Proof.Machine
end

