-- ==== Sys2Proof/Certificates/Slice0/Obligations.lean ====
section
/-! DEFINITION. The statements for the provers, from the numbered rules of spec/. Where a statement rests on a choice of the
model, its docstring names the log entry. -/

open Sys2Proof Sys2Proof.Machine

/-! ### Event words and the operation map -/

/-- R86: the FD event word. `abort` wins, then `valid`; the byte is bits 7 to 0; all 1024 values name an event. -/
def Obligations.FdEventWordNamesItsEvent : Prop :=
  ∀ (st : FdState) (w : BitVec 10),
    (w.getLsbD 9 = true → decode st (.fdEv w) = .fdAbort) ∧
    (w.getLsbD 9 = false → w.getLsbD 8 = false → decode st (.fdEv w) = decodeNone st) ∧
    (w.getLsbD 9 = false → w.getLsbD 8 = true → decode st (.fdEv w) = decodeByte st (BitVec.ofNat 8 w.toNat))

/-- Words written out from the tables of R92, R94 and R97 and the vectors of 95_test_vectors.md decode to their operations. -/
def Obligations.WrittenOutWordsDecode : Prop :=
  decode .hunt (.fdEv 0x141) = .fdHuntStray 0x41 ∧ decode .hunt (.fdEv 0x17E) = .fdHuntSof ∧
  decode .hunt (.fdEv 0x17D) = .fdHuntStray 0x7D ∧ decode .hunt (.fdEv 0x000) = .fdHuntNone ∧
  decode .hdr (.fdEv 0x17E) = .fdHdrLit 0x7E ∧ decode .hdr (.fdEv 0x17D) = .fdHdrEsc ∧
  decode .hdrEsc (.fdEv 0x17D) = .fdHdrEscAny 0x7D ∧ decode .stop0 (.fdEv 0x17E) = .fdStop0Any 0x7E ∧
  decode .stop1 (.fdEv 0x103) = .fdStop1Any 3 ∧ decode .pay (.fdEv 0x17E) = .fdPayLit 0x7E ∧
  decode .pay (.fdEv 0x17D) = .fdPayEsc ∧ decode .payEsc (.fdEv 0x15E) = .fdPayEscAny 0x5E ∧
  decode .pay (.fdEv 0x341) = .fdAbort ∧ decode .hunt (.fdEv 0x200) = .fdAbort ∧
  decode .hunt (.asmIn 0x012) = .asmPush 0x12 ∧ decode .hunt (.asmIn 0x105) = .asmPushL 5 ∧
  decode .hunt (.verIn 0x018) = .verPush 0x18 ∧ decode .hunt (.verIn 0x105) = .verPushL 5 ∧
  decode .hunt (.cksIn 0x100) = .cksClear ∧ decode .hunt (.cksIn 0x012) = .cksAdd 0x12 ∧
  decode .hunt .asmOut = .asmPop ∧ decode .hunt .rst = .reset

/-- Decode and encode agree: the canonical event of every well-formed operation selects it wherever R92 selects it. -/
def Obligations.DecodeEncodeGivesTheOperation : Prop :=
  ∀ (i : Instr) (st : FdState), i.wellFormed = true → i.selectedIn st = true → decode st (encode i) = i

/-- The other direction: encoding what an event selects gives the event back, its ignored bits 0 (R97, U21). -/
def Obligations.EncodeDecodeGivesTheCanonicalEvent : Prop :=
  ∀ (st : FdState) (e : PortEvent), encode (decode st e) = canonical e

/-- Every event selects a well-formed operation of the map, in the state it is read in (R92, R95). -/
def Obligations.DecodedOperationIsSelected : Prop :=
  ∀ (st : FdState) (e : PortEvent), (decode st e).wellFormed = true ∧ (decode st e).selectedIn st = true

/-- Two events that select one operation in one state differ in ignored bits at most: no bit that matters is dropped. -/
def Obligations.DecodeSeparatesCanonicalEvents : Prop :=
  ∀ (st : FdState) (e e' : PortEvent), decode st e = decode st e' → canonical e = canonical e'

/-! ### One step -/

/-- A step runs the operation that the first presented event selects (R12); a presentation with `rst` resets and overrides the
rest of it (R93); where nothing is presented the block waits. The presentations and the waiting are the model's choice
(log entries 1, 2, 4 and 5). -/
def Obligations.StepRunsThePresentedEvent : Prop :=
  (∀ (s : State) (e : PortEvent) (rest : List Ports), s.env.pending = portsOf e :: rest →
    step s = exec (decode s.fd.state e) { s with env := { s.env with pending := rest } }) ∧
  (∀ (s : State) (p p' : Ports) (e : PortEvent) (rest : List Ports), s.env.pending = p :: rest →
    takePort p = some (e, p') → p' ≠ idlePorts →
    step s = exec (decode s.fd.state e) { s with env := { s.env with pending := p' :: rest } }) ∧
  (∀ (s : State) (p : Ports) (rest : List Ports), s.env.pending = p :: rest → p.rst = true →
    step s = exec .reset { s with env := { s.env with pending := rest } } ∧
    step s = .next { State.reset with env := { s.env with pending := rest } }) ∧
  (∀ s : State, s.env.pending = [] → step s = .next s)

/-! ### Units CKS and VER -/

/-- R114. -/
def Obligations.CksClearZeroes : Prop :=
  (∀ (st : FdState) (b : Byte), decode st (.cksIn (flagWord true b)) = .cksClear) ∧
  (∀ s : State, exec .cksClear s = .next { s with cks := { acc := 0 } }) ∧
  (∀ s t : State, exec .cksClear s = .next t → exec .cksClear t = .next t)

/-- R115. -/
def Obligations.CksAddAccumulates : Prop :=
  (∀ (st : FdState) (b : Byte), decode st (.cksIn (flagWord false b)) = .cksAdd b) ∧
  (∀ (s : State) (b : Byte),
    exec (.cksAdd b) s = .next { s with cks := { acc := BitVec.ofNat 16 ((s.cks.acc.toNat + b.toNat) % 65536) } })

/-- R117: the first two bytes make up the expected value, high byte first; later bytes are summed. -/
def Obligations.VerPushTakesTheByte : Prop :=
  (∀ (st : FdState) (b : Byte), decode st (.verIn (flagWord false b)) = .verPush b) ∧
  (∀ (s : State) (b : Byte),
    (s.ver.cnt = .zero → exec (.verPush b) s = .next { s with ver :=
      { cnt := .one, exp := BitVec.ofNat 16 (b.toNat * 256 + s.ver.exp.toNat % 256), sum := s.ver.sum } }) ∧
    (s.ver.cnt = .one → exec (.verPush b) s = .next { s with ver :=
      { cnt := .two, exp := BitVec.ofNat 16 (s.ver.exp.toNat / 256 * 256 + b.toNat), sum := s.ver.sum } }) ∧
    (s.ver.cnt = .two → exec (.verPush b) s = .next { s with ver :=
      { cnt := .two, exp := s.ver.exp, sum := BitVec.ofNat 16 ((s.ver.sum.toNat + b.toNat) % 65536) } }))

/-- R118: one verdict, shortness before the comparison, and VER in its reset state. -/
def Obligations.VerPushLGivesOneVerdict : Prop :=
  (∀ (st : FdState) (b : Byte), decode st (.verIn (flagWord true b)) = .verPushL b) ∧
  (∀ (s : State) (b : Byte),
    let v := verTake s.ver b
    exec (.verPushL b) s = .next { s with
      ver := { cnt := .zero, exp := 0, sum := 0 }
      env := { s.env with verq := s.env.verq ++
        [if v.cnt ≠ .two then .lengthShort else if v.sum = v.exp then .ok else .integrityError] } })

/-- R116: the expected value is the first two bytes, high byte first; a buffer without them is a LengthError. -/
def Obligations.VerifyComparesThePrefix : Prop :=
  (∀ framed : List Byte, 2 ≤ framed.length →
    let expected : Nat := (framed.getD 0 0).toNat * 256 + (framed.getD 1 0).toNat
    verify framed =
      if (cksum16 (framed.drop 2)).toNat = expected then .ok (framed.drop 2) else .error .integrityError) ∧
  (∀ framed : List Byte, framed.length < 2 → verify framed = .error .lengthError)

/-- R119: from its reset state VER gives on any buffer the verdict of `verify`. -/
def Obligations.VerRealizesVerify : Prop :=
  ∀ (s : State) (framed : List Byte) (rest : List Ports), framed ≠ [] → s.ver = Ver.reset →
    s.env.pending = traceVbuf framed ++ rest →
    RunsTo framed.length s { s with env := { s.env with
      pending := rest
      verq := s.env.verq ++ [match verify framed with
        | .ok _ => .ok
        | .error .integrityError => .integrityError
        | .error .lengthError => .lengthShort] } }

/-- R111 (d) on the unit: clearing and adding the bytes of any sequence leaves its checksum in `cks.acc`. -/
def Obligations.CksRealizesTheChecksum : Prop :=
  ∀ (s : State) (p : List Byte) (rest : List Ports), s.env.pending = traceCsum p ++ rest →
    RunsTo (p.length + 1) s { s with cks := { acc := cksum16 p }, env := { s.env with pending := rest } }

/-! ### Checksum and packet functions -/

/-- R111: additivity, reordering, no wrap up to 257 bytes with the first wrap at 258, and the incremental form. -/
def Obligations.ChecksumLaws : Prop :=
  (∀ a b : List Byte, cksum16 (a ++ b) = BitVec.ofNat 16 (((cksum16 a).toNat + (cksum16 b).toNat) % 65536)) ∧
  (∀ p q : List Byte, p.Perm q → cksum16 p = cksum16 q) ∧
  (∀ p : List Byte, p.length ≤ 257 →
    (cksum16 p).toNat = (p.map BitVec.toNat).sum ∧ (p.map BitVec.toNat).sum ≤ 65535) ∧
  ((List.replicate 258 (0xFF#8)).map BitVec.toNat).sum = 65790 ∧
  (∀ p : List Byte, p.foldl addByte 0 = cksum16 p)

/-- R120: a packet built over any payload verifies. -/
def Obligations.ChecksumRoundTrip : Prop :=
  ∀ p : List Byte, verify (be16 (cksum16 p) ++ p) = .ok p

/-- R174: the logical bytes of a full frame have the shape of a response packet. -/
def Obligations.StreamChecksumIsVerify : Prop :=
  ∀ hdr pay : List Byte, hdr.length = 8 →
    (streamCksOk hdr pay = true ↔ verify (hdr ++ pay) = .ok (hdr.drop 2 ++ pay))

/-! ### Unit ASM -/

/-- R131, in phase LOAD: a byte is stored and summed, or dropped with `asm.ovf` set when the buffer is full. -/
def Obligations.AsmPushLoadsTheByte : Prop :=
  (∀ (st : FdState) (b : Byte), decode st (.asmIn (flagWord false b)) = .asmPush b) ∧
  (∀ (s : State) (b : Byte), s.asm.phase = .load →
    exec (.asmPush b) s = .next { s with asm :=
      if s.asm.buf.length = 257 then { s.asm with ovf := true }
      else { s.asm with
        buf := s.asm.buf ++ [b]
        sum := BitVec.ofNat 16 ((s.asm.sum.toNat + b.toNat) % 65536) } })

/-- R132, in phase LOAD: the command is built, or discarded with OVERFLOW. -/
def Obligations.AsmPushLEndsTheCommand : Prop :=
  (∀ (st : FdState) (b : Byte), decode st (.asmIn (flagWord true b)) = .asmPushL b) ∧
  (∀ (s : State) (b : Byte), s.asm.phase = .load →
    let a := asmTake s.asm b
    exec (.asmPushL b) s = .next { s with
      asm := if a.ovf = true then { a with buf := [], sum := 0, ovf := false } else { a with phase := .emit, idx := 0 }
      env := { s.env with asmrq := s.env.asmrq ++ [if a.ovf = true then .overflow else .built] } })

/-- R134, in phase EMIT: the byte of the packet `be16(asm.sum) ++ asm.buf` at `asm.idx` goes to TXQ, marked when it is the last,
and ASM advances or goes back to LOAD. -/
def Obligations.AsmPopEmitsThePacketByte : Prop :=
  (∀ st : FdState, decode st .asmOut = .asmPop) ∧
  (∀ s : State, s.asm.phase = .emit → s.asm.idx ≤ s.asm.buf.length + 1 →
    ∃ b : Byte, (be16 s.asm.sum ++ s.asm.buf)[s.asm.idx]? = some b ∧
      exec .asmPop s = .next { s with
        asm := if s.asm.idx = s.asm.buf.length + 1
          then { phase := .load, buf := [], sum := 0, idx := 0, ovf := s.asm.ovf }
          else { s.asm with idx := s.asm.idx + 1 }
        env := { s.env with txq := s.env.txq ++
          [BitVec.ofNat 9 ((if s.asm.idx = s.asm.buf.length + 1 then 256 else 0) + b.toNat)] } })

/-- R135: an event that does not fit the phase changes nothing of the block and appends to no queue, and the ready and valid
outputs say so. That the step answers a next state which leaves the event in `env.held` is the model's choice (log entry 3). -/
def Obligations.AsmHeldEventChangesNothing : Prop :=
  (∀ (s : State) (b : Byte), s.asm.phase = .emit →
    (outPorts s).asmInReady = false ∧
    exec (.asmPush b) s = .next { s with env := { s.env with held := s.env.held ++ [.asmIn (flagWord false b)] } } ∧
    exec (.asmPushL b) s = .next { s with env := { s.env with held := s.env.held ++ [.asmIn (flagWord true b)] } }) ∧
  (∀ s : State, s.asm.phase = .load →
    (outPorts s).asmOutValid = false ∧
    exec .asmPop s = .next { s with env := { s.env with held := s.env.held ++ [.asmOut] } })

/-- R137: from its reset state ASM loads a command of 1 to 257 bytes and emits exactly its packet, the last byte marked, and is
back in its reset state. -/
def Obligations.AsmRealizesBuildPacket : Prop :=
  ∀ (s : State) (c : List Byte) (rest : List Ports), 1 ≤ c.length → c.length ≤ 257 → s.asm = Asm.reset →
    s.env.pending = traceCmd c ++ List.replicate (c.length + 2) traceApop ++ rest →
    RunsTo (2 * c.length + 2) s { s with env := { s.env with
      pending := rest
      asmrq := s.env.asmrq ++ [.built]
      txq := s.env.txq ++ (buildPacket c).dropLast.map (txWord false) ++ [txWord true (c.getLastD 0)] } }

/-! ### Unit FD: state HUNT and polls without a byte -/

/-- R187, R190, R192, R194, R196, R199, R201: a poll without a byte appends the idle record and changes nothing else. -/
def Obligations.FdPollWithoutByteReportsIdle : Prop :=
  ∀ (st : FdState) (i : Instr),
    (st, i) ∈ [(.hunt, .fdHuntNone), (.hdr, .fdHdrNone), (.hdrEsc, .fdHdrEscNone), (.stop0, .fdStop0None),
      (.stop1, .fdStop1None), (.pay, .fdPayNone), (.payEsc, .fdPayEscNone)] →
    (∀ b : Byte, decode st (.fdEv (fdWord false false b)) = i) ∧
    ∀ s : State, exec i s = .next { s with env := { s.env with resq := s.env.resq ++ [0x000#12] } }

/-- Property 8 of the source, in every state (R67, R222): any number of polls without a byte each report code 0 and change
nothing else. -/
def Obligations.IdlePollsOnlyReport : Prop :=
  ∀ (n : Nat) (s : State) (rest : List Ports), s.env.pending = List.replicate n traceRxn ++ rest →
    RunsTo n s { s with env := { s.env with pending := rest, resq := s.env.resq ++ List.replicate n 0x000#12 } }

/-- R185. -/
def Obligations.FdDelimiterEntersTheHeader : Prop :=
  decode .hunt (.fdEv (fdWord false true 0x7E)) = .fdHuntSof ∧
  ∀ s : State, exec .fdHuntSof s = .next { s with fd := { s.fd with state := .hdr } }

/-- R186. -/
def Obligations.FdStrayByteIsReported : Prop :=
  (∀ b : Byte, b ≠ 0x7E#8 → decode .hunt (.fdEv (fdWord false true b)) = .fdHuntStray b) ∧
  ∀ (s : State) (b : Byte), exec (.fdHuntStray b) s = .next { s with env := { s.env with
    dataq := s.env.dataq ++ [BitVec.ofNat 16 b.toNat], resq := s.env.resq ++ [0x801#12] } }

/-! ### Unit FD: header, stop and payload -/

/-- R189 and R198: the escape marker is consumed, stored nowhere and leaves the escape pending. -/
def Obligations.FdEscapeMarkerIsPending : Prop :=
  decode .hdr (.fdEv (fdWord false true 0x7D)) = .fdHdrEsc ∧ decode .pay (.fdEv (fdWord false true 0x7D)) = .fdPayEsc ∧
  (∀ s : State, exec .fdHdrEsc s = .next { s with fd := { s.fd with state := .hdrEsc } }) ∧
  (∀ s : State, exec .fdPayEsc s = .next { s with fd := { s.fd with state := .payEsc } })

/-- R181, R188, R191: a literal byte, or a follower with bit 5 flipped, is stored as the next header byte. The third byte 80
starts the stop short-circuit; the eighth starts the payload, or ends the frame when the length byte asks for no payload. -/
def Obligations.FdHeaderByteIsStored : Prop :=
  (∀ b : Byte, b ≠ 0x7D#8 → decode .hdr (.fdEv (fdWord false true b)) = .fdHdrLit b) ∧
  (∀ b : Byte, decode .hdrEsc (.fdEv (fdWord false true b)) = .fdHdrEscAny b) ∧
  ∀ (s : State) (i : Instr) (b v : Byte),
    (i = .fdHdrLit b ∧ v = b ∨ i = .fdHdrEscAny b ∧ v = b ^^^ 0x20#8) →
    s.fd.hdr.length ≤ 7 → s.fd.pay = [] →
    let h := s.fd.hdr ++ [v]
    exec i s = .next (
      if h.length = 3 ∧ h.getD 2 0 = 80#8 then { s with fd := { state := .stop0, hdr := h, pay := [] } }
      else if h.length = 8 ∧ 4 < (h.getD 3 0).toNat then { s with fd := { state := .pay, hdr := h, pay := [] } }
      else if h.length = 8 then { s with
        fd := { state := .hunt, hdr := [], pay := [] }
        env := { s.env with
          chanq := s.env.chanq ++ [BitVec.ofInt 9 ((h.getD 4 0).toNat - 1)]
          resq := s.env.resq ++ [BitVec.ofNat 12 (1024
            + (if cksum16 (h.drop 2) = fromBe16 (h.getD 0 0) (h.getD 1 0) then 512 else 0)
            + (if (h.getD 3 0).toNat < 4 then 128 else 0))] } }
      else { s with fd := { state := .hdr, hdr := h, pay := [] } })

/-- R182, R183, R197, R200: a literal byte, or a follower with bit 5 flipped, is stored as the next payload byte. The last one
delivers the frame: its samples, its channel id and its record, and FD hunts again. -/
def Obligations.FdPayloadByteIsStored : Prop :=
  (∀ b : Byte, b ≠ 0x7D#8 → decode .pay (.fdEv (fdWord false true b)) = .fdPayLit b) ∧
  (∀ b : Byte, decode .payEsc (.fdEv (fdWord false true b)) = .fdPayEscAny b) ∧
  ∀ (s : State) (i : Instr) (b v : Byte),
    (i = .fdPayLit b ∧ v = b ∨ i = .fdPayEscAny b ∧ v = b ^^^ 0x20#8) →
    s.fd.hdr.length = 8 → s.fd.pay.length < ptarget s.fd.hdr →
    let h := s.fd.hdr
    let p := s.fd.pay ++ [v]
    exec i s = .next (
      if p.length + 4 = (h.getD 3 0).toNat then { s with
        fd := { state := .hunt, hdr := [], pay := [] }
        env := { s.env with
          dataq := s.env.dataq ++ (samplesOf p).map (BitVec.ofInt 16)
          chanq := s.env.chanq ++ [BitVec.ofInt 9 ((h.getD 4 0).toNat - 1)]
          resq := s.env.resq ++ [BitVec.ofNat 12 (1024
            + (if cksum16 (h.drop 2 ++ p) = fromBe16 (h.getD 0 0) (h.getD 1 0) then 512 else 0)
            + (if p.length % 2 = 1 then 256 else 0) + p.length / 2)] } }
      else { s with fd := { state := .pay, hdr := h, pay := p } })

/-- R193: the first tail byte is read raw and discarded. -/
def Obligations.FdFirstTailByteIsDiscarded : Prop :=
  (∀ b : Byte, decode .stop0 (.fdEv (fdWord false true b)) = .fdStop0Any b) ∧
  ∀ (s : State) (b : Byte), exec (.fdStop0Any b) s = .next { s with fd := { s.fd with state := .stop1 } }

/-- R195: the second tail byte is the channel number, read raw. -/
def Obligations.FdSecondTailByteEndsTheStopFrame : Prop :=
  (∀ b : Byte, decode .stop1 (.fdEv (fdWord false true b)) = .fdStop1Any b) ∧
  ∀ (s : State) (b : Byte), exec (.fdStop1Any b) s = .next { s with
    fd := { state := .hunt, hdr := [], pay := [] }
    env := { s.env with
      chanq := s.env.chanq ++ [BitVec.ofInt 9 (b.toNat - 1)], resq := s.env.resq ++ [0xC00#12] } }

/-- R202 and R263: the abort clears FD and touches nothing else, whatever the word's other bits. -/
def Obligations.FdAbortClearsTheFrame : Prop :=
  (∀ (st : FdState) (valid : Bool) (b : Byte), decode st (.fdEv (fdWord true valid b)) = .fdAbort) ∧
  ∀ s : State, exec .fdAbort s = .next { s with fd := { state := .hunt, hdr := [], pay := [] } }

/-! ### RESET -/

/-- R51 and the pseudocode of R260: every element at its reset value, no queue touched; the machine's reset state has those
values. That a presentation with `rst` drops its other events is a clause of StepRunsThePresentedEvent (log entry 5). -/
def Obligations.ResetEventResetsEveryUnit : Prop :=
  (∀ st : FdState, decode st .rst = .reset) ∧
  (∀ s : State, exec .reset s = .next {
    cks := { acc := 0 }
    ver := { cnt := .zero, exp := 0, sum := 0 }
    asm := { phase := .load, buf := [], sum := 0, idx := 0, ovf := false }
    fd := { state := .hunt, hdr := [], pay := [] }
    env := s.env }) ∧
  (∀ s : State, exec .reset s = .next { State.reset with env := s.env })

/-! ### Invariants -/

/-- R40: FD's state invariant holds after reset and after every step. -/
def Obligations.StepKeepsFdInvariant : Prop :=
  FdInv State.reset.fd ∧ ∀ s t : State, FdInv s.fd → step s = .next t → FdInv t.fd

/-- R28 to R32: ASM's invariant holds after every step; in particular `asm.sum` is the checksum of `asm.buf`. -/
def Obligations.StepKeepsAsmInvariant : Prop :=
  ∀ s t : State, AsmInv s.asm → step s = .next t → AsmInv t.asm

/-- R23 to R25: VER's invariant holds after every step. -/
def Obligations.StepKeepsVerInvariant : Prop :=
  ∀ s t : State, VerInv s.ver → step s = .next t → VerInv t.ver

/-- R43, R44, R89: after every step the three streaming queues still fit together. -/
def Obligations.StepKeepsQueueAccounting : Prop :=
  ∀ s t : State, QueueInv s.env → step s = .next t → QueueInv t.env

/-- The invariants hold at reset. That the queues are empty there is R41; that nothing is presented or held there is the
model's choice (log entries 1 and 3). -/
def Obligations.ResetMeetsTheInvariants : Prop :=
  UnitsInv State.reset ∧ QueueInv State.reset.env ∧ CleanEnd State.reset ∧
  State.reset.env.pending = [] ∧ State.reset.env.held = []

/-- R180, R277: the block never stops. From every state that meets the invariants a step answers a next state: the faults of
log entry 7 arise in no such state. -/
def Obligations.StepNeverStops : Prop :=
  ∀ s : State, UnitsInv s → ∃ t : State, step s = .next t

/-! ### Queues, reports and units -/

/-- R41: a step appends at the tails of the queues and neither removes nor reads an entry: from states that differ in their
queues alone the block does the same and appends the same. All queues are empty at reset of the environment. -/
def Obligations.QueuesAreAppendedToAndNeverRead : Prop :=
  (∀ s s' t : State, s.cks = s'.cks → s.ver = s'.ver → s.asm = s'.asm → s.fd = s'.fd → s.env.pending = s'.env.pending →
    step s = .next t →
    ∃ d : Env, t.env = appendEnv s.env d ∧ step s' = .next { t with env := appendEnv s'.env d }) ∧
  (State.reset.env.dataq = [] ∧ State.reset.env.chanq = [] ∧ State.reset.env.resq = [] ∧ State.reset.env.txq = [] ∧
    State.reset.env.asmrq = [] ∧ State.reset.env.verq = [])

/-- R239, last sentence: a step reports at most one record. -/
def Obligations.StepReportsAtMostOnce : Prop :=
  ∀ s t : State, step s = .next t →
    t.env.resq.length + t.env.asmrq.length + t.env.verq.length ≤
      s.env.resq.length + s.env.asmrq.length + s.env.verq.length + 1

/-- R240: what a reporting step leaves, by the record it appended. -/
def Obligations.ReportLeavesTheUnitReady : Prop :=
  ∀ s t : State, step s = .next t →
    (∀ v : Verdict, t.env.verq = s.env.verq ++ [v] → t.ver = { cnt := .zero, exp := 0, sum := 0 }) ∧
    (t.env.asmrq = s.env.asmrq ++ [.overflow] →
      t.asm.phase = .load ∧ t.asm.buf = [] ∧ t.asm.sum = 0 ∧ t.asm.ovf = false) ∧
    (t.env.asmrq = s.env.asmrq ++ [.built] → t.asm.phase = .emit ∧ t.asm.idx = 0) ∧
    (∀ w : BitVec 12, t.env.resq = s.env.resq ++ [w] →
      ((resOfWord w).code = .idle → t.fd = s.fd) ∧
      ((resOfWord w).code = .stray → s.fd.state = .hunt ∧ t.fd = s.fd) ∧
      ((resOfWord w).code = .frame ∨ (resOfWord w).code = .stop → t.fd = { state := .hunt, hdr := [], pay := [] }))

/-- R4, R73: no operation of one unit touches the state or the queues of another, and none touches the presentations. -/
def Obligations.UnitsArePrivate : Prop :=
  ∀ (i : Instr) (s t : State), exec i s = .next t →
    t.env.pending = s.env.pending ∧
    (unitOf i ≠ .all → unitOf i ≠ .cks → t.cks = s.cks) ∧
    (unitOf i ≠ .all → unitOf i ≠ .ver → t.ver = s.ver) ∧
    (unitOf i ≠ .all → unitOf i ≠ .asm → t.asm = s.asm) ∧
    (unitOf i ≠ .all → unitOf i ≠ .fd → t.fd = s.fd) ∧
    (unitOf i ≠ .ver → t.env.verq = s.env.verq) ∧
    (unitOf i ≠ .asm → t.env.txq = s.env.txq ∧ t.env.asmrq = s.env.asmrq ∧ t.env.held = s.env.held) ∧
    (unitOf i ≠ .fd → t.env.dataq = s.env.dataq ∧ t.env.chanq = s.env.chanq ∧ t.env.resq = s.env.resq)

/-- R73: operations of different units commute. -/
def Obligations.UnitStepsCommute : Prop :=
  ∀ (i j : Instr) (s s₁ s₂ : State), unitOf i ≠ unitOf j → unitOf i ≠ .all → unitOf j ≠ .all →
    exec i s = .next s₁ → exec j s₁ = .next s₂ →
    ∃ s₃ : State, exec j s = .next s₃ ∧ exec i s₃ = .next s₂

/-! ### Frames, end to end -/

/-- R204: a byte absorbed into a frame that does not end appends nothing to FD's queues. -/
def Obligations.NoEarlyExposure : Prop :=
  ∀ (s t : State) (b : Byte) (rest : List Ports), s.env.pending = traceRx b :: rest →
    s.fd.state ≠ .hunt → s.fd.state ≠ .stop1 → step s = .next t → t.fd.state ≠ .hunt →
    t.env.dataq = s.env.dataq ∧ t.env.chanq = s.env.chanq ∧ t.env.resq = s.env.resq

/-- R214: from STOP0, exactly two bytes of whatever value lead to the code-3 record. -/
def Obligations.StopFrameEndsAfterTwoBytes : Prop :=
  ∀ (s : State) (b₀ b₁ : Byte) (rest : List Ports), s.fd.state = .stop0 →
    s.env.pending = traceRx b₀ :: traceRx b₁ :: rest →
    ∃ t : State, RunsTo 1 s t ∧ t.env.resq = s.env.resq ∧ t.env.chanq = s.env.chanq ∧
      RunsTo 2 s { s with
        fd := { state := .hunt, hdr := [], pay := [] }
        env := { s.env with
          pending := rest
          chanq := s.env.chanq ++ [BitVec.ofInt 9 (b₁.toNat - 1)], resq := s.env.resq ++ [0xC00#12] } }

/-- R215: from any state other than HUNT, 518 bytes without an abort bring FD back to HUNT. -/
def Obligations.EveryFrameEndsWithin518Bytes : Prop :=
  ∀ (s : State) (bs : List Byte), FdInv s.fd → s.fd.state ≠ .hunt → bs.length = 518 → s.env.pending = traceRxs bs →
    ∃ (k : Nat) (t : State), k ≤ 518 ∧ RunsTo k s t ∧ t.fd.state = .hunt

/-- R210, full frame: the delimiter and any raw bytes that unescape to a header and its payload deliver exactly that frame. -/
def Obligations.FullFrameIsDecoded : Prop :=
  ∀ (s : State) (w hdr pay : List Byte) (rest : List Ports), s.fd = { state := .hunt, hdr := [], pay := [] } →
    unescape w = hdr ++ pay → endsPending false w = false → hdr.length = 8 → hdr.getD 2 0 ≠ 80#8 →
    pay.length = ptarget hdr → s.env.pending = traceRxs (0x7E#8 :: w) ++ rest →
    RunsTo (w.length + 1) s { s with env := { s.env with
      pending := rest
      dataq := s.env.dataq ++ (samplesOf pay).map (BitVec.ofInt 16)
      chanq := s.env.chanq ++ [BitVec.ofInt 9 (chanId (hdr.getD 4 0))]
      resq := s.env.resq ++ [resWord
        { code := .frame
          cksOk := streamCksOk hdr pay
          oddLen := ptarget hdr % 2 == 1
          lenUf := (hdr.getD 3 0).toNat < 4
          n := ptarget hdr / 2 }] } }

/-- R210, stop frame: the delimiter, raw bytes that unescape to two header bytes and the stop value, and two raw tail bytes. -/
def Obligations.StopFrameIsDecoded : Prop :=
  ∀ (s : State) (w : List Byte) (h₀ h₁ t₀ t₁ : Byte) (rest : List Ports),
    s.fd = { state := .hunt, hdr := [], pay := [] } →
    unescape w = [h₀, h₁, 80#8] → endsPending false w = false →
    s.env.pending = traceRxs (0x7E#8 :: (w ++ [t₀, t₁])) ++ rest →
    RunsTo (w.length + 3) s { s with env := { s.env with
      pending := rest
      chanq := s.env.chanq ++ [BitVec.ofInt 9 (chanId t₁)]
      resq := s.env.resq ++ [0xC00#12] } }

/-! ### Datapath functions -/

/-- R165: the reference encoder. Its output holds no delimiter, holds the marker only as the first byte of a pair, and is at
most twice as long as its input. -/
def Obligations.EscapeOutputIsFramable : Prop :=
  escape [] = [] ∧
  (∀ (b : Byte) (s : List Byte), escape (b :: s) =
    (if b = 0x7E#8 then [0x7D#8, 0x5E#8] else if b = 0x7D#8 then [0x7D#8, 0x5D#8] else [b]) ++ escape s) ∧
  (∀ s : List Byte, (0x7E#8) ∉ escape s ∧ s.length ≤ (escape s).length ∧ (escape s).length ≤ 2 * s.length ∧
    endsPending false (escape s) = false ∧
    ∀ i : Nat, (escape s)[i]? = some (0x7D#8) → (escape s)[i + 1]? = some (0x5E#8) ∨ (escape s)[i + 1]? = some (0x5D#8))

/-- R166: the recovered byte of a pair, for every follower. That the two readings of C2 agree on conforming followers is D7. -/
def Obligations.FollowerIsRecovered : Prop :=
  (∀ f : Byte, unesc1 f = f ^^^ 0x20#8 ∧ unesc1 (unesc1 f) = f) ∧
  unesc1 0x5E = 0x7E#8 ∧ unesc1 0x5D = 0x7D#8 ∧ unesc1 0x70 = 0x50#8 ∧ unesc1 0x7E = 0x5E#8 ∧ unesc1 0x7D = 0x5D#8 ∧
  unesc1 0x00 = 0x20#8 ∧ unesc1 0xFF = 0xDF#8 ∧
  (∀ op : UnescOp, unesc1Of op 0x5E = 0x7E#8 ∧ unesc1Of op 0x5D = 0x7D#8) ∧
  (∀ f : Byte, f.getLsbD 5 = true → unesc1Of .xor f ≠ unesc1Of .or f)

/-- R168: unescaping undoes escaping; the converse fails, and holds only for outputs of `escape`. -/
def Obligations.EscapeRoundTrip : Prop :=
  (∀ b : List Byte, unescape (escape b) = b) ∧
  (∃ r : List Byte, escape (unescape r) ≠ r) ∧
  (∀ r : List Byte, escape (unescape r) = r → ∃ b : List Byte, r = escape b)

/-- R169: samples are 16-bit two's complement, high byte first. -/
def Obligations.SamplesAreSigned : Prop :=
  (∀ hi lo : Byte,
    let v : Int := hi.toNat * 256 + lo.toNat
    sdec16 hi lo = (if v < 32768 then v else v - 65536) ∧ sdec16 hi lo = (fromBe16 hi lo).toInt ∧
    -32768 ≤ sdec16 hi lo ∧ sdec16 hi lo ≤ 32767) ∧
  sdec16 0xFF 0xFF = -1 ∧ sdec16 0x80 0x00 = -32768 ∧ sdec16 0x7F 0xFF = 32767 ∧ sdec16 0 0 = 0 ∧ sdec16 1 2 = 258

/-- R170: one sample for each consecutive pair of payload bytes, and none for an odd last byte. -/
def Obligations.SamplesPairThePayload : Prop :=
  ∀ pay : List Byte, (samplesOf pay).length = pay.length / 2 ∧
    ∀ k : Nat, k < pay.length / 2 →
      (samplesOf pay)[k]? = some (sdec16 (pay.getD (2 * k) 0) (pay.getD (2 * k + 1) 0))

/-- R171, R172, R90: channel ids and payload lengths with their ranges, and queue entries that hold their values. -/
def Obligations.ChannelAndLengthRanges : Prop :=
  (∀ w : Byte, chanId w = (w.toNat : Int) - 1 ∧ -1 ≤ chanId w ∧ chanId w ≤ 254 ∧ (chanWord (chanId w)).toInt = chanId w) ∧
  (∀ hdr : List Byte, ptarget hdr ≤ 251 ∧ lenUfFlag hdr = decide ((hdr.getD 3 0).toNat < 4) ∧
    ((hdr.getD 3 0).toNat < 4 → ptarget hdr = 0) ∧
    (4 ≤ (hdr.getD 3 0).toNat → ptarget hdr + 4 = (hdr.getD 3 0).toNat)) ∧
  (∀ x : Int, -32768 ≤ x → x ≤ 32767 → (dataWord x).toInt = x) ∧
  chanWord (-1) = 0x1FF#9

/-- R89: the record's number, and its fields read back from the word. -/
def Obligations.ResultRecordRoundTrip : Prop :=
  (∀ r : ResRecord, r.n ≤ 127 →
    (resWord r).toNat = resCodeBits r.code * 1024 + r.cksOk.toNat * 512 + r.oddLen.toNat * 256 + r.lenUf.toNat * 128 + r.n ∧
    resOfWord (resWord r) = r) ∧
  (∀ w : BitVec 12, resWord (resOfWord w) = w)

/-! ### The environment's side -/

/-- R157: the order of checks of a response: short read, checksum, declared length. -/
def Obligations.ResponseChecksInOrder : Prop :=
  ∀ (bytes : List Byte) (desc : List Slot),
    let n := expectedLen desc
    (bytes.length < n → checkResponse bytes desc = .error .lengthError) ∧
    (n ≤ bytes.length → cksum16 ((bytes.take n).drop 2) ≠ fromBe16 (bytes.getD 0 0) (bytes.getD 1 0) →
      checkResponse bytes desc = .error .integrityError) ∧
    (n ≤ bytes.length → cksum16 ((bytes.take n).drop 2) = fromBe16 (bytes.getD 0 0) (bytes.getD 1 0) →
      (bytes.getD 3 0).toNat ≠ n - 4 → checkResponse bytes desc = .error .lengthError) ∧
    (n ≤ bytes.length → cksum16 ((bytes.take n).drop 2) = fromBe16 (bytes.getD 0 0) (bytes.getD 1 0) →
      (bytes.getD 3 0).toNat = n - 4 →
      checkResponse bytes desc = .ok (decodeFields desc ((bytes.take n).drop 4)))

/-- R154, R157 and source property 7. The bytes of a slot give its value, most significant byte first, unsigned or two's
complement; values laid out in their slots read back as those values; and a well-built response of the declared length decodes
to exactly the values it carries, whatever its echo and whatever follows it. -/
def Obligations.WellBuiltResponseDecodes : Prop :=
  (∀ (signed : Bool) (a b c d : Byte),
    let sext (k : Nat) (v : Int) : Int := if signed = true ∧ 2 ^ (8 * k - 1) ≤ v then v - 2 ^ (8 * k) else v
    slotValue { signed := signed, size := .one } [a] = sext 1 a.toNat ∧
    slotValue { signed := signed, size := .two } [a, b] = sext 2 (a.toNat * 256 + b.toNat) ∧
    slotValue { signed := signed, size := .four } [a, b, c, d] =
      sext 4 (a.toNat * 256 ^ 3 + b.toNat * 256 ^ 2 + c.toNat * 256 + d.toNat)) ∧
  (∀ (s : Slot) (v : Int), slotHolds s v →
    (slotLayout s v).length = slotBytes s ∧ slotValue s (slotLayout s v) = v) ∧
  (∀ (fields : List (Slot × Int)) (more : List Byte), (∀ f ∈ fields, slotHolds f.1 f.2) →
    decodeFields (fields.map Prod.fst) (fieldsLayout fields ++ more) = fields.map Prod.snd) ∧
  (∀ (desc : List Slot) (echo : Byte) (fields more : List Byte), fields.length = descSize desc → fields.length ≤ 255 →
    checkResponse (buildPacket (echo :: BitVec.ofNat 8 fields.length :: fields) ++ more) desc =
      .ok (decodeFields desc fields)) ∧
  (∀ (fields : List (Slot × Int)) (echo : Byte) (more : List Byte), (∀ f ∈ fields, slotHolds f.1 f.2) →
    descSize (fields.map Prod.fst) ≤ 255 →
    checkResponse
      (buildPacket (echo :: BitVec.ofNat 8 (descSize (fields.map Prod.fst)) :: fieldsLayout fields) ++ more)
      (fields.map Prod.fst) = .ok (fields.map Prod.snd))

/-- R225: the three queues of a sound environment pair up, one item for each record. -/
def Obligations.StreamQueuesPairUp : Prop :=
  ∀ e : Env, QueueInv e → ∃ items : List StreamItem,
    pairUp e.resq e.dataq e.chanq = some items ∧ items.length = e.resq.length

/-- R265: the first step of a session clears FD, no byte of the old session is left, and nothing else changes: every
presentation keeps its events for the other units. That the bytes still in the transport are FD's presentations is the model's
choice (log entry 14). -/
def Obligations.SessionStartsClean : Prop :=
  ∀ s : State, ∃ t : State, step s.startSession = .next t ∧ t.fd = { state := .hunt, hdr := [], pay := [] } ∧
    t.env.pending = s.env.pending.map (fun p => { p with fdEv := none }) ∧ (∀ p ∈ t.env.pending, p.fdEv = none) ∧
    t.cks = s.cks ∧ t.ver = s.ver ∧ t.asm = s.asm ∧ t.env = { s.env with pending := t.env.pending }
end

