-- ==== Sys2Proof/Laws/Decode.lean ====
section
/-! SUPPORT. The fields of an event word read back from the word built of them (R86, R87, R88). -/

namespace Sys2Proof

theorem fdWord_abort (a v : Bool) (b : Byte) : (fdWord a v b).getLsbD 9 = a :=
  (BitVec.getLsbD_append (x := BitVec.ofBool a ++ BitVec.ofBool v) (y := b) (i := 9)).trans (by cases a <;> cases v <;> rfl)

theorem fdWord_valid (a v : Bool) (b : Byte) : (fdWord a v b).getLsbD 8 = v :=
  (BitVec.getLsbD_append (x := BitVec.ofBool a ++ BitVec.ofBool v) (y := b) (i := 8)).trans (by cases a <;> cases v <;> rfl)

@[simp] theorem fdByte_fdWord (a v : Bool) (b : Byte) : fdByte (fdWord a v b) = b := by
  apply BitVec.eq_of_getLsbD_eq
  intro i hi
  have h := BitVec.getLsbD_append (x := BitVec.ofBool a ++ BitVec.ofBool v) (y := b) (i := i)
  have e : (fdWord a v b).getLsbD i = b.getLsbD i := h.trans (by simp [hi])
  simpa [fdByte, hi] using e

theorem flagWord_flag (f : Bool) (b : Byte) : (flagWord f b).getLsbD 8 = f :=
  (BitVec.getLsbD_append (x := BitVec.ofBool f) (y := b) (i := 8)).trans (by cases f <;> rfl)

@[simp] theorem lowByte_flagWord (f : Bool) (b : Byte) : lowByte (flagWord f b) = b := by
  apply BitVec.eq_of_getLsbD_eq
  intro i hi
  have h := BitVec.getLsbD_append (x := BitVec.ofBool f) (y := b) (i := i)
  have e : (flagWord f b).getLsbD i = b.getLsbD i := h.trans (by simp [hi])
  simpa [lowByte, hi] using e

/-- What an FD event word of given fields selects. -/
@[simp] theorem decodeFd_fdWord (st : FdState) (a v : Bool) (b : Byte) :
    decodeFd st (fdWord a v b) = if a then .fdAbort else if v then decodeByte st b else decodeNone st := by
  simp only [decodeFd, fdWord_abort, fdWord_valid, fdByte_fdWord]

@[simp] theorem decodeAsmIn_flagWord (f : Bool) (b : Byte) :
    decodeAsmIn (flagWord f b) = if f then .asmPushL b else .asmPush b := by
  simp only [decodeAsmIn, flagWord_flag, lowByte_flagWord]

@[simp] theorem decodeVerIn_flagWord (f : Bool) (b : Byte) :
    decodeVerIn (flagWord f b) = if f then .verPushL b else .verPush b := by
  simp only [decodeVerIn, flagWord_flag, lowByte_flagWord]

@[simp] theorem decodeCksIn_flagWord (f : Bool) (b : Byte) :
    decodeCksIn (flagWord f b) = if f then .cksClear else .cksAdd b := by
  simp only [decodeCksIn, flagWord_flag, lowByte_flagWord]

end Sys2Proof
end

