-- ==== Sys2Proof/Laws/Operands.lean ====
section
/-! SUPPORT. Small lemmas of the datapath functions: what each gives on the shapes the rules build. -/

namespace Sys2Proof.Machine

@[simp] theorem cksum16_nil : cksum16 [] = 0 := rfl

@[simp] theorem cksum16_cons (b : Byte) (p : List Byte) : cksum16 (b :: p) = zext16 b + cksum16 p := by
  apply BitVec.eq_of_toNat_eq
  simp [cksum16, zext16]

/-- One more byte at the end adds that byte to the sum (R110, R115). -/
theorem cksum16_concat (p : List Byte) (b : Byte) : cksum16 (p ++ [b]) = addByte (cksum16 p) b := by
  apply BitVec.eq_of_toNat_eq
  simp [cksum16, addByte, zext16]

@[simp] theorem hiByte_fromBe16 (a b : Byte) : hiByte (fromBe16 a b) = a := by
  apply BitVec.eq_of_toNat_eq
  have hb := b.isLt
  have ha := a.isLt
  simp only [hiByte, fromBe16, BitVec.extractLsb'_toNat, BitVec.toNat_append, Nat.shiftRight_eq_div_pow, Nat.shiftLeft_eq]
  rw [← Nat.shiftLeft_eq, ← Nat.shiftLeft_add_eq_or_of_lt hb, Nat.shiftLeft_eq]
  omega

@[simp] theorem loByte_fromBe16 (a b : Byte) : loByte (fromBe16 a b) = b := by
  apply BitVec.eq_of_toNat_eq
  have hb := b.isLt
  simp only [loByte, fromBe16, BitVec.extractLsb'_toNat, BitVec.toNat_append, Nat.shiftRight_zero]
  rw [← Nat.shiftLeft_add_eq_or_of_lt hb, Nat.shiftLeft_eq]
  omega

theorem fromBe16_toNat (a b : Byte) : (fromBe16 a b).toNat = a.toNat * 256 + b.toNat := by
  have hb := b.isLt
  simp only [fromBe16, BitVec.toNat_append]
  rw [← Nat.shiftLeft_add_eq_or_of_lt hb, Nat.shiftLeft_eq]

/-- The two bytes of a 16-bit value make it up again (R112). -/
theorem fromBe16_hi_lo (v : Half) : fromBe16 (hiByte v) (loByte v) = v := by
  apply BitVec.eq_of_toNat_eq
  have := v.isLt
  rw [fromBe16_toNat]
  simp only [hiByte, loByte, BitVec.extractLsb'_toNat, Nat.shiftRight_eq_div_pow]
  omega

@[simp] theorem unesc1_eq (f : Byte) : unesc1 f = f ^^^ 0x20#8 := rfl
@[simp] theorem strayWord_eq (b : Byte) : strayWord b = b.setWidth 16 := rfl
@[simp] theorem unescapeFrom_nil (p : Bool) : unescapeFrom p [] = [] := rfl
@[simp] theorem unescapeFrom_pending (b : Byte) (r : List Byte) :
    unescapeFrom true (b :: r) = (b ^^^ 0x20#8) :: unescapeFrom false r := rfl
@[simp] theorem unescapeFrom_marker (r : List Byte) : unescapeFrom false (0x7D#8 :: r) = unescapeFrom true r := rfl
theorem unescapeFrom_literal {b : Byte} (h : b ≠ 0x7D#8) (r : List Byte) :
    unescapeFrom false (b :: r) = b :: unescapeFrom false r := by simp [unescapeFrom, h]

@[simp] theorem samplesOf_nil : samplesOf [] = [] := rfl
@[simp] theorem samplesOf_single (b : Byte) : samplesOf [b] = [] := rfl
@[simp] theorem samplesOf_pair (hi lo : Byte) (r : List Byte) :
    samplesOf (hi :: lo :: r) = sdec16 hi lo :: samplesOf r := rfl

theorem ptarget_eq (hdr : List Byte) : ptarget hdr = (hdrByte hdr 3).toNat - 4 := rfl

/-- No header asks for more than the payload buffer holds (R172, R8). -/
theorem ptarget_le (hdr : List Byte) : ptarget hdr ≤ 251 := by
  have := (hdrByte hdr 3).isLt
  rw [ptarget_eq]
  omega

theorem isStop_iff (hdr : List Byte) : isStop hdr = true ↔ hdr.length = 3 ∧ hdrByte hdr 2 = 80#8 := by
  simp [isStop]

/-- A header byte already in does not change when another one is stored (R62). -/
theorem hdrByte_append {hdr : List Byte} {i : Nat} (h : i < hdr.length) (v : Byte) :
    hdrByte (hdr ++ [v]) i = hdrByte hdr i := by
  simp only [hdrByte, List.getD_eq_getElem?_getD, List.getElem?_append_left h]

/-- The header byte just stored. -/
theorem hdrByte_concat (hdr : List Byte) (v : Byte) : hdrByte (hdr ++ [v]) hdr.length = v := by
  simp [hdrByte]

end Sys2Proof.Machine
end

