-- ==== Sys2Proof/Laws/State.lean ====
section
/-! SUPPORT. One lemma per field per update of State, so that no proof unfolds a record update; every update is a row. -/

namespace Sys2Proof.Machine

variable (s : State)

/-! ### setCks -/

@[simp] theorem State.setCks_cks (c : Cks) : (s.setCks c).cks = c := rfl
@[simp] theorem State.setCks_ver (c : Cks) : (s.setCks c).ver = s.ver := rfl
@[simp] theorem State.setCks_asm (c : Cks) : (s.setCks c).asm = s.asm := rfl
@[simp] theorem State.setCks_fd (c : Cks) : (s.setCks c).fd = s.fd := rfl
@[simp] theorem State.setCks_pending (c : Cks) : (s.setCks c).env.pending = s.env.pending := rfl
@[simp] theorem State.setCks_held (c : Cks) : (s.setCks c).env.held = s.env.held := rfl
@[simp] theorem State.setCks_dataq (c : Cks) : (s.setCks c).env.dataq = s.env.dataq := rfl
@[simp] theorem State.setCks_chanq (c : Cks) : (s.setCks c).env.chanq = s.env.chanq := rfl
@[simp] theorem State.setCks_resq (c : Cks) : (s.setCks c).env.resq = s.env.resq := rfl
@[simp] theorem State.setCks_txq (c : Cks) : (s.setCks c).env.txq = s.env.txq := rfl
@[simp] theorem State.setCks_asmrq (c : Cks) : (s.setCks c).env.asmrq = s.env.asmrq := rfl
@[simp] theorem State.setCks_verq (c : Cks) : (s.setCks c).env.verq = s.env.verq := rfl

/-! ### setVer -/

@[simp] theorem State.setVer_cks (v : Ver) : (s.setVer v).cks = s.cks := rfl
@[simp] theorem State.setVer_ver (v : Ver) : (s.setVer v).ver = v := rfl
@[simp] theorem State.setVer_asm (v : Ver) : (s.setVer v).asm = s.asm := rfl
@[simp] theorem State.setVer_fd (v : Ver) : (s.setVer v).fd = s.fd := rfl
@[simp] theorem State.setVer_pending (v : Ver) : (s.setVer v).env.pending = s.env.pending := rfl
@[simp] theorem State.setVer_held (v : Ver) : (s.setVer v).env.held = s.env.held := rfl
@[simp] theorem State.setVer_dataq (v : Ver) : (s.setVer v).env.dataq = s.env.dataq := rfl
@[simp] theorem State.setVer_chanq (v : Ver) : (s.setVer v).env.chanq = s.env.chanq := rfl
@[simp] theorem State.setVer_resq (v : Ver) : (s.setVer v).env.resq = s.env.resq := rfl
@[simp] theorem State.setVer_txq (v : Ver) : (s.setVer v).env.txq = s.env.txq := rfl
@[simp] theorem State.setVer_asmrq (v : Ver) : (s.setVer v).env.asmrq = s.env.asmrq := rfl
@[simp] theorem State.setVer_verq (v : Ver) : (s.setVer v).env.verq = s.env.verq := rfl

/-! ### setAsm -/

@[simp] theorem State.setAsm_cks (a : Asm) : (s.setAsm a).cks = s.cks := rfl
@[simp] theorem State.setAsm_ver (a : Asm) : (s.setAsm a).ver = s.ver := rfl
@[simp] theorem State.setAsm_asm (a : Asm) : (s.setAsm a).asm = a := rfl
@[simp] theorem State.setAsm_fd (a : Asm) : (s.setAsm a).fd = s.fd := rfl
@[simp] theorem State.setAsm_pending (a : Asm) : (s.setAsm a).env.pending = s.env.pending := rfl
@[simp] theorem State.setAsm_held (a : Asm) : (s.setAsm a).env.held = s.env.held := rfl
@[simp] theorem State.setAsm_dataq (a : Asm) : (s.setAsm a).env.dataq = s.env.dataq := rfl
@[simp] theorem State.setAsm_chanq (a : Asm) : (s.setAsm a).env.chanq = s.env.chanq := rfl
@[simp] theorem State.setAsm_resq (a : Asm) : (s.setAsm a).env.resq = s.env.resq := rfl
@[simp] theorem State.setAsm_txq (a : Asm) : (s.setAsm a).env.txq = s.env.txq := rfl
@[simp] theorem State.setAsm_asmrq (a : Asm) : (s.setAsm a).env.asmrq = s.env.asmrq := rfl
@[simp] theorem State.setAsm_verq (a : Asm) : (s.setAsm a).env.verq = s.env.verq := rfl

/-! ### setFd -/

@[simp] theorem State.setFd_cks (f : Fd) : (s.setFd f).cks = s.cks := rfl
@[simp] theorem State.setFd_ver (f : Fd) : (s.setFd f).ver = s.ver := rfl
@[simp] theorem State.setFd_asm (f : Fd) : (s.setFd f).asm = s.asm := rfl
@[simp] theorem State.setFd_fd (f : Fd) : (s.setFd f).fd = f := rfl
@[simp] theorem State.setFd_pending (f : Fd) : (s.setFd f).env.pending = s.env.pending := rfl
@[simp] theorem State.setFd_held (f : Fd) : (s.setFd f).env.held = s.env.held := rfl
@[simp] theorem State.setFd_dataq (f : Fd) : (s.setFd f).env.dataq = s.env.dataq := rfl
@[simp] theorem State.setFd_chanq (f : Fd) : (s.setFd f).env.chanq = s.env.chanq := rfl
@[simp] theorem State.setFd_resq (f : Fd) : (s.setFd f).env.resq = s.env.resq := rfl
@[simp] theorem State.setFd_txq (f : Fd) : (s.setFd f).env.txq = s.env.txq := rfl
@[simp] theorem State.setFd_asmrq (f : Fd) : (s.setFd f).env.asmrq = s.env.asmrq := rfl
@[simp] theorem State.setFd_verq (f : Fd) : (s.setFd f).env.verq = s.env.verq := rfl

/-! ### setPending -/

@[simp] theorem State.setPending_cks (ps : List Ports) : (s.setPending ps).cks = s.cks := rfl
@[simp] theorem State.setPending_ver (ps : List Ports) : (s.setPending ps).ver = s.ver := rfl
@[simp] theorem State.setPending_asm (ps : List Ports) : (s.setPending ps).asm = s.asm := rfl
@[simp] theorem State.setPending_fd (ps : List Ports) : (s.setPending ps).fd = s.fd := rfl
@[simp] theorem State.setPending_pending (ps : List Ports) : (s.setPending ps).env.pending = ps := rfl
@[simp] theorem State.setPending_held (ps : List Ports) : (s.setPending ps).env.held = s.env.held := rfl
@[simp] theorem State.setPending_dataq (ps : List Ports) : (s.setPending ps).env.dataq = s.env.dataq := rfl
@[simp] theorem State.setPending_chanq (ps : List Ports) : (s.setPending ps).env.chanq = s.env.chanq := rfl
@[simp] theorem State.setPending_resq (ps : List Ports) : (s.setPending ps).env.resq = s.env.resq := rfl
@[simp] theorem State.setPending_txq (ps : List Ports) : (s.setPending ps).env.txq = s.env.txq := rfl
@[simp] theorem State.setPending_asmrq (ps : List Ports) : (s.setPending ps).env.asmrq = s.env.asmrq := rfl
@[simp] theorem State.setPending_verq (ps : List Ports) : (s.setPending ps).env.verq = s.env.verq := rfl

/-! ### addHeld -/

@[simp] theorem State.addHeld_cks (e : PortEvent) : (s.addHeld e).cks = s.cks := rfl
@[simp] theorem State.addHeld_ver (e : PortEvent) : (s.addHeld e).ver = s.ver := rfl
@[simp] theorem State.addHeld_asm (e : PortEvent) : (s.addHeld e).asm = s.asm := rfl
@[simp] theorem State.addHeld_fd (e : PortEvent) : (s.addHeld e).fd = s.fd := rfl
@[simp] theorem State.addHeld_pending (e : PortEvent) : (s.addHeld e).env.pending = s.env.pending := rfl
@[simp] theorem State.addHeld_held (e : PortEvent) : (s.addHeld e).env.held = s.env.held ++ [e] := rfl
@[simp] theorem State.addHeld_dataq (e : PortEvent) : (s.addHeld e).env.dataq = s.env.dataq := rfl
@[simp] theorem State.addHeld_chanq (e : PortEvent) : (s.addHeld e).env.chanq = s.env.chanq := rfl
@[simp] theorem State.addHeld_resq (e : PortEvent) : (s.addHeld e).env.resq = s.env.resq := rfl
@[simp] theorem State.addHeld_txq (e : PortEvent) : (s.addHeld e).env.txq = s.env.txq := rfl
@[simp] theorem State.addHeld_asmrq (e : PortEvent) : (s.addHeld e).env.asmrq = s.env.asmrq := rfl
@[simp] theorem State.addHeld_verq (e : PortEvent) : (s.addHeld e).env.verq = s.env.verq := rfl

/-! ### addData -/

@[simp] theorem State.addData_cks (ds : List (BitVec 16)) : (s.addData ds).cks = s.cks := rfl
@[simp] theorem State.addData_ver (ds : List (BitVec 16)) : (s.addData ds).ver = s.ver := rfl
@[simp] theorem State.addData_asm (ds : List (BitVec 16)) : (s.addData ds).asm = s.asm := rfl
@[simp] theorem State.addData_fd (ds : List (BitVec 16)) : (s.addData ds).fd = s.fd := rfl
@[simp] theorem State.addData_pending (ds : List (BitVec 16)) : (s.addData ds).env.pending = s.env.pending := rfl
@[simp] theorem State.addData_held (ds : List (BitVec 16)) : (s.addData ds).env.held = s.env.held := rfl
@[simp] theorem State.addData_dataq (ds : List (BitVec 16)) : (s.addData ds).env.dataq = s.env.dataq ++ ds := rfl
@[simp] theorem State.addData_chanq (ds : List (BitVec 16)) : (s.addData ds).env.chanq = s.env.chanq := rfl
@[simp] theorem State.addData_resq (ds : List (BitVec 16)) : (s.addData ds).env.resq = s.env.resq := rfl
@[simp] theorem State.addData_txq (ds : List (BitVec 16)) : (s.addData ds).env.txq = s.env.txq := rfl
@[simp] theorem State.addData_asmrq (ds : List (BitVec 16)) : (s.addData ds).env.asmrq = s.env.asmrq := rfl
@[simp] theorem State.addData_verq (ds : List (BitVec 16)) : (s.addData ds).env.verq = s.env.verq := rfl

/-! ### addChan -/

@[simp] theorem State.addChan_cks (c : BitVec 9) : (s.addChan c).cks = s.cks := rfl
@[simp] theorem State.addChan_ver (c : BitVec 9) : (s.addChan c).ver = s.ver := rfl
@[simp] theorem State.addChan_asm (c : BitVec 9) : (s.addChan c).asm = s.asm := rfl
@[simp] theorem State.addChan_fd (c : BitVec 9) : (s.addChan c).fd = s.fd := rfl
@[simp] theorem State.addChan_pending (c : BitVec 9) : (s.addChan c).env.pending = s.env.pending := rfl
@[simp] theorem State.addChan_held (c : BitVec 9) : (s.addChan c).env.held = s.env.held := rfl
@[simp] theorem State.addChan_dataq (c : BitVec 9) : (s.addChan c).env.dataq = s.env.dataq := rfl
@[simp] theorem State.addChan_chanq (c : BitVec 9) : (s.addChan c).env.chanq = s.env.chanq ++ [c] := rfl
@[simp] theorem State.addChan_resq (c : BitVec 9) : (s.addChan c).env.resq = s.env.resq := rfl
@[simp] theorem State.addChan_txq (c : BitVec 9) : (s.addChan c).env.txq = s.env.txq := rfl
@[simp] theorem State.addChan_asmrq (c : BitVec 9) : (s.addChan c).env.asmrq = s.env.asmrq := rfl
@[simp] theorem State.addChan_verq (c : BitVec 9) : (s.addChan c).env.verq = s.env.verq := rfl

/-! ### addRes -/

@[simp] theorem State.addRes_cks (r : BitVec 12) : (s.addRes r).cks = s.cks := rfl
@[simp] theorem State.addRes_ver (r : BitVec 12) : (s.addRes r).ver = s.ver := rfl
@[simp] theorem State.addRes_asm (r : BitVec 12) : (s.addRes r).asm = s.asm := rfl
@[simp] theorem State.addRes_fd (r : BitVec 12) : (s.addRes r).fd = s.fd := rfl
@[simp] theorem State.addRes_pending (r : BitVec 12) : (s.addRes r).env.pending = s.env.pending := rfl
@[simp] theorem State.addRes_held (r : BitVec 12) : (s.addRes r).env.held = s.env.held := rfl
@[simp] theorem State.addRes_dataq (r : BitVec 12) : (s.addRes r).env.dataq = s.env.dataq := rfl
@[simp] theorem State.addRes_chanq (r : BitVec 12) : (s.addRes r).env.chanq = s.env.chanq := rfl
@[simp] theorem State.addRes_resq (r : BitVec 12) : (s.addRes r).env.resq = s.env.resq ++ [r] := rfl
@[simp] theorem State.addRes_txq (r : BitVec 12) : (s.addRes r).env.txq = s.env.txq := rfl
@[simp] theorem State.addRes_asmrq (r : BitVec 12) : (s.addRes r).env.asmrq = s.env.asmrq := rfl
@[simp] theorem State.addRes_verq (r : BitVec 12) : (s.addRes r).env.verq = s.env.verq := rfl

/-! ### addTx -/

@[simp] theorem State.addTx_cks (w : BitVec 9) : (s.addTx w).cks = s.cks := rfl
@[simp] theorem State.addTx_ver (w : BitVec 9) : (s.addTx w).ver = s.ver := rfl
@[simp] theorem State.addTx_asm (w : BitVec 9) : (s.addTx w).asm = s.asm := rfl
@[simp] theorem State.addTx_fd (w : BitVec 9) : (s.addTx w).fd = s.fd := rfl
@[simp] theorem State.addTx_pending (w : BitVec 9) : (s.addTx w).env.pending = s.env.pending := rfl
@[simp] theorem State.addTx_held (w : BitVec 9) : (s.addTx w).env.held = s.env.held := rfl
@[simp] theorem State.addTx_dataq (w : BitVec 9) : (s.addTx w).env.dataq = s.env.dataq := rfl
@[simp] theorem State.addTx_chanq (w : BitVec 9) : (s.addTx w).env.chanq = s.env.chanq := rfl
@[simp] theorem State.addTx_resq (w : BitVec 9) : (s.addTx w).env.resq = s.env.resq := rfl
@[simp] theorem State.addTx_txq (w : BitVec 9) : (s.addTx w).env.txq = s.env.txq ++ [w] := rfl
@[simp] theorem State.addTx_asmrq (w : BitVec 9) : (s.addTx w).env.asmrq = s.env.asmrq := rfl
@[simp] theorem State.addTx_verq (w : BitVec 9) : (s.addTx w).env.verq = s.env.verq := rfl

/-! ### addAsmr -/

@[simp] theorem State.addAsmr_cks (a : AsmStatus) : (s.addAsmr a).cks = s.cks := rfl
@[simp] theorem State.addAsmr_ver (a : AsmStatus) : (s.addAsmr a).ver = s.ver := rfl
@[simp] theorem State.addAsmr_asm (a : AsmStatus) : (s.addAsmr a).asm = s.asm := rfl
@[simp] theorem State.addAsmr_fd (a : AsmStatus) : (s.addAsmr a).fd = s.fd := rfl
@[simp] theorem State.addAsmr_pending (a : AsmStatus) : (s.addAsmr a).env.pending = s.env.pending := rfl
@[simp] theorem State.addAsmr_held (a : AsmStatus) : (s.addAsmr a).env.held = s.env.held := rfl
@[simp] theorem State.addAsmr_dataq (a : AsmStatus) : (s.addAsmr a).env.dataq = s.env.dataq := rfl
@[simp] theorem State.addAsmr_chanq (a : AsmStatus) : (s.addAsmr a).env.chanq = s.env.chanq := rfl
@[simp] theorem State.addAsmr_resq (a : AsmStatus) : (s.addAsmr a).env.resq = s.env.resq := rfl
@[simp] theorem State.addAsmr_txq (a : AsmStatus) : (s.addAsmr a).env.txq = s.env.txq := rfl
@[simp] theorem State.addAsmr_asmrq (a : AsmStatus) : (s.addAsmr a).env.asmrq = s.env.asmrq ++ [a] := rfl
@[simp] theorem State.addAsmr_verq (a : AsmStatus) : (s.addAsmr a).env.verq = s.env.verq := rfl

/-! ### addVerr -/

@[simp] theorem State.addVerr_cks (v : Verdict) : (s.addVerr v).cks = s.cks := rfl
@[simp] theorem State.addVerr_ver (v : Verdict) : (s.addVerr v).ver = s.ver := rfl
@[simp] theorem State.addVerr_asm (v : Verdict) : (s.addVerr v).asm = s.asm := rfl
@[simp] theorem State.addVerr_fd (v : Verdict) : (s.addVerr v).fd = s.fd := rfl
@[simp] theorem State.addVerr_pending (v : Verdict) : (s.addVerr v).env.pending = s.env.pending := rfl
@[simp] theorem State.addVerr_held (v : Verdict) : (s.addVerr v).env.held = s.env.held := rfl
@[simp] theorem State.addVerr_dataq (v : Verdict) : (s.addVerr v).env.dataq = s.env.dataq := rfl
@[simp] theorem State.addVerr_chanq (v : Verdict) : (s.addVerr v).env.chanq = s.env.chanq := rfl
@[simp] theorem State.addVerr_resq (v : Verdict) : (s.addVerr v).env.resq = s.env.resq := rfl
@[simp] theorem State.addVerr_txq (v : Verdict) : (s.addVerr v).env.txq = s.env.txq := rfl
@[simp] theorem State.addVerr_asmrq (v : Verdict) : (s.addVerr v).env.asmrq = s.env.asmrq := rfl
@[simp] theorem State.addVerr_verq (v : Verdict) : (s.addVerr v).env.verq = s.env.verq ++ [v] := rfl

/-! ### setFdState, clearFrame, report, hold -/

@[simp] theorem State.setFdState_cks (st : FdState) : (s.setFdState st).cks = s.cks := rfl
@[simp] theorem clearFrame_cks : (clearFrame s).cks = s.cks := rfl
@[simp] theorem State.setFdState_ver (st : FdState) : (s.setFdState st).ver = s.ver := rfl
@[simp] theorem clearFrame_ver : (clearFrame s).ver = s.ver := rfl
@[simp] theorem State.setFdState_asm (st : FdState) : (s.setFdState st).asm = s.asm := rfl
@[simp] theorem clearFrame_asm : (clearFrame s).asm = s.asm := rfl
@[simp] theorem State.setFdState_fd (st : FdState) : (s.setFdState st).fd = { s.fd with state := st } := rfl
@[simp] theorem clearFrame_fd : (clearFrame s).fd = Fd.reset := rfl
@[simp] theorem State.setFdState_pending (st : FdState) : (s.setFdState st).env.pending = s.env.pending := rfl
@[simp] theorem clearFrame_pending : (clearFrame s).env.pending = s.env.pending := rfl
@[simp] theorem State.setFdState_held (st : FdState) : (s.setFdState st).env.held = s.env.held := rfl
@[simp] theorem clearFrame_held : (clearFrame s).env.held = s.env.held := rfl
@[simp] theorem State.setFdState_dataq (st : FdState) : (s.setFdState st).env.dataq = s.env.dataq := rfl
@[simp] theorem clearFrame_dataq : (clearFrame s).env.dataq = s.env.dataq := rfl
@[simp] theorem State.setFdState_chanq (st : FdState) : (s.setFdState st).env.chanq = s.env.chanq := rfl
@[simp] theorem clearFrame_chanq : (clearFrame s).env.chanq = s.env.chanq := rfl
@[simp] theorem State.setFdState_resq (st : FdState) : (s.setFdState st).env.resq = s.env.resq := rfl
@[simp] theorem clearFrame_resq : (clearFrame s).env.resq = s.env.resq := rfl
@[simp] theorem State.setFdState_txq (st : FdState) : (s.setFdState st).env.txq = s.env.txq := rfl
@[simp] theorem clearFrame_txq : (clearFrame s).env.txq = s.env.txq := rfl
@[simp] theorem State.setFdState_asmrq (st : FdState) : (s.setFdState st).env.asmrq = s.env.asmrq := rfl
@[simp] theorem clearFrame_asmrq : (clearFrame s).env.asmrq = s.env.asmrq := rfl
@[simp] theorem State.setFdState_verq (st : FdState) : (s.setFdState st).env.verq = s.env.verq := rfl
@[simp] theorem clearFrame_verq : (clearFrame s).env.verq = s.env.verq := rfl
@[simp] theorem State.hold_cks (e : PortEvent) : (s.hold e).cks = s.cks := rfl
@[simp] theorem State.hold_ver (e : PortEvent) : (s.hold e).ver = s.ver := rfl
@[simp] theorem State.hold_asm (e : PortEvent) : (s.hold e).asm = s.asm := rfl
@[simp] theorem State.hold_fd (e : PortEvent) : (s.hold e).fd = s.fd := rfl
@[simp] theorem State.hold_pending (e : PortEvent) : (s.hold e).env.pending = s.env.pending := rfl
@[simp] theorem State.hold_held (e : PortEvent) : (s.hold e).env.held = s.env.held ++ [e] := rfl
@[simp] theorem State.hold_dataq (e : PortEvent) : (s.hold e).env.dataq = s.env.dataq := rfl
@[simp] theorem State.hold_chanq (e : PortEvent) : (s.hold e).env.chanq = s.env.chanq := rfl
@[simp] theorem State.hold_resq (e : PortEvent) : (s.hold e).env.resq = s.env.resq := rfl
@[simp] theorem State.hold_txq (e : PortEvent) : (s.hold e).env.txq = s.env.txq := rfl
@[simp] theorem State.hold_asmrq (e : PortEvent) : (s.hold e).env.asmrq = s.env.asmrq := rfl
@[simp] theorem State.hold_verq (e : PortEvent) : (s.hold e).env.verq = s.env.verq := rfl
@[simp] theorem State.report_result (r : ResRecord) : s.report (.result r) = s.addRes (resWord r) := rfl
@[simp] theorem State.report_assembled (r : AsmStatus) : s.report (.assembled r) = s.addAsmr (r) := rfl
@[simp] theorem State.report_verdict (r : Verdict) : s.report (.verdict r) = s.addVerr (r) := rfl

/-! ### Reset values -/

@[simp] theorem State.reset_cks : State.reset.cks = Cks.reset := rfl
@[simp] theorem State.reset_ver : State.reset.ver = Ver.reset := rfl
@[simp] theorem State.reset_asm : State.reset.asm = Asm.reset := rfl
@[simp] theorem State.reset_fd : State.reset.fd = Fd.reset := rfl
@[simp] theorem State.reset_env : State.reset.env = Env.reset := rfl
@[simp] theorem Fd.reset_state : Fd.reset.state = .hunt := rfl
@[simp] theorem Fd.reset_hdr : Fd.reset.hdr = [] := rfl
@[simp] theorem Fd.reset_pay : Fd.reset.pay = [] := rfl
@[simp] theorem Ver.reset_cnt : Ver.reset.cnt = .zero := rfl
@[simp] theorem Ver.reset_exp : Ver.reset.exp = 0 := rfl
@[simp] theorem Ver.reset_sum : Ver.reset.sum = 0 := rfl
@[simp] theorem Asm.reset_phase : Asm.reset.phase = .load := rfl
@[simp] theorem Asm.reset_buf : Asm.reset.buf = [] := rfl
@[simp] theorem Asm.reset_sum : Asm.reset.sum = 0 := rfl
@[simp] theorem Asm.reset_idx : Asm.reset.idx = 0 := rfl
@[simp] theorem Asm.reset_ovf : Asm.reset.ovf = false := rfl

end Sys2Proof.Machine
end

