-- ==== Sys2Proof/Laws/Ops.lean ====
section
/-! SUPPORT. What each shared operation can do, once: "if it answers next s', then ...". -/

namespace Sys2Proof.Machine

variable {s s' : State} {v b : Byte}

@[simp] theorem reportIdle_eq (s : State) : reportIdle s = s.addRes 0x000#12 := rfl
@[simp] theorem idleMidframe_eq (s : State) : idleMidframe s = s.addRes 0x000#12 := rfl

/-- A delivered frame changes only the three queues of FD (R183). -/
theorem deliverFrame_eq (s : State) : deliverFrame s =
    ((s.addData ((samplesOf s.fd.pay).map dataWord)).addChan (chanWord (chanId (hdrByte s.fd.hdr 4)))).addRes
      (resWord (frameRecord s.fd.hdr s.fd.pay)) := rfl

/-- Completing a frame delivers and clears it, exactly where it is fully collected (R183). -/
theorem completeFrame_next (h : completeFrame s = .next s') :
    s.fd.hdr.length = 8 ∧ s.fd.pay.length = ptarget s.fd.hdr ∧ s' = clearFrame (deliverFrame s) := by
  unfold completeFrame at h
  split at h
  · rename_i hc
    exact ⟨hc.1, hc.2, by injection h with h; exact h.symm⟩
  · cases h

theorem completeFrame_of (h8 : s.fd.hdr.length = 8) (hp : s.fd.pay.length = ptarget s.fd.hdr) :
    completeFrame s = .next (clearFrame (deliverFrame s)) := by simp [completeFrame, h8, hp]

/-- FD after a header byte is stored. -/
def storeHdr (v : Byte) (s : State) : State := s.setFd { s.fd with hdr := s.fd.hdr ++ [v] }

/-- FD after a payload byte is stored. -/
def storePay (v : Byte) (s : State) : State := s.setFd { s.fd with pay := s.fd.pay ++ [v] }

/-- `push_hdr` over the state after the store (R181). -/
theorem pushHdr_eq (v : Byte) (s : State) : pushHdr v s =
    if s.fd.hdr.length ≤ 7 then
      if isStop (s.fd.hdr ++ [v]) = true then .next ((storeHdr v s).setFdState .stop0)
      else if s.fd.hdr.length = 7 then
        if ptarget (s.fd.hdr ++ [v]) = 0 then completeFrame (storeHdr v s) else .next ((storeHdr v s).setFdState .pay)
      else .next ((storeHdr v s).setFdState .hdr)
    else .fault .headerOverrun := by
  by_cases hl : s.fd.hdr.length ≤ 7 <;> by_cases hs : isStop (s.fd.hdr ++ [v]) = true <;>
    by_cases h7 : s.fd.hdr.length = 7 <;> by_cases hp : ptarget (s.fd.hdr ++ [v]) = 0 <;>
    simp [pushHdr, storeHdr, Nat.lt_succ_iff, hl, hs, h7, hp]

/-- `push_pay` over the state after the store (R182). -/
theorem pushPay_eq (v : Byte) (s : State) : pushPay v s =
    if s.fd.hdr.length = 8 ∧ s.fd.pay.length < ptarget s.fd.hdr then
      if s.fd.pay.length + 1 = ptarget s.fd.hdr then completeFrame (storePay v s) else .next ((storePay v s).setFdState .pay)
    else .fault .payloadOverrun := by
  simp only [pushPay, storePay, State.setFd_fd, List.length_append, List.length_singleton, Config.hdrLen]

/-- The four outcomes of `push_hdr` (R181): a stop frame begins, a frame without payload ends, the payload begins, or the
header goes on. -/
theorem pushHdr_next (h : pushHdr v s = .next s') :
    s.fd.hdr.length ≤ 7 ∧
    ((isStop (s.fd.hdr ++ [v]) = true ∧ s' = (storeHdr v s).setFdState .stop0) ∨
     (isStop (s.fd.hdr ++ [v]) = false ∧ s.fd.hdr.length = 7 ∧ ptarget (s.fd.hdr ++ [v]) = 0 ∧ s.fd.pay.length = 0 ∧
        s' = clearFrame (deliverFrame (storeHdr v s))) ∨
     (isStop (s.fd.hdr ++ [v]) = false ∧ s.fd.hdr.length = 7 ∧ ptarget (s.fd.hdr ++ [v]) ≠ 0 ∧
        s' = (storeHdr v s).setFdState .pay) ∨
     (isStop (s.fd.hdr ++ [v]) = false ∧ s.fd.hdr.length ≠ 7 ∧ s' = (storeHdr v s).setFdState .hdr)) := by
  rw [pushHdr_eq] at h
  split_ifs at h with hl hs h7 hp
  · injection h with h
    exact ⟨hl, .inl ⟨hs, h.symm⟩⟩
  · obtain ⟨-, h2, h3⟩ := completeFrame_next h
    simp only [storeHdr, State.setFd_fd] at h2
    exact ⟨hl, .inr (.inl ⟨by simpa using hs, h7, hp, by omega, h3⟩)⟩
  · injection h with h
    exact ⟨hl, .inr (.inr (.inl ⟨by simpa using hs, h7, hp, h.symm⟩))⟩
  · injection h with h
    exact ⟨hl, .inr (.inr (.inr ⟨by simpa using hs, h7, h.symm⟩))⟩

/-- The two outcomes of `push_pay` (R182): the frame ends, or the payload goes on. -/
theorem pushPay_next (h : pushPay v s = .next s') :
    s.fd.hdr.length = 8 ∧ s.fd.pay.length < ptarget s.fd.hdr ∧
    ((s.fd.pay.length + 1 = ptarget s.fd.hdr ∧ s' = clearFrame (deliverFrame (storePay v s))) ∨
     (s.fd.pay.length + 1 ≠ ptarget s.fd.hdr ∧ s' = (storePay v s).setFdState .pay)) := by
  rw [pushPay_eq] at h
  split_ifs at h with hc hp
  · exact ⟨hc.1, hc.2, .inl ⟨hp, (completeFrame_next h).2.2⟩⟩
  · injection h with h
    exact ⟨hc.1, hc.2, .inr ⟨hp, h.symm⟩⟩

/-- `push_hdr` answers a next state wherever its precondition holds and no payload is in (R181). -/
theorem pushHdr_answers (hl : s.fd.hdr.length ≤ 7) (hp : s.fd.pay.length = 0) : ∃ t, pushHdr v s = .next t := by
  rw [pushHdr_eq, if_pos hl]
  split_ifs with hs h7 ht
  · exact ⟨_, rfl⟩
  · exact ⟨_, completeFrame_of (by simp [storeHdr, h7]) (by simpa [storeHdr, hp] using ht.symm)⟩
  · exact ⟨_, rfl⟩
  · exact ⟨_, rfl⟩

/-- `push_pay` answers a next state wherever its precondition holds (R182). -/
theorem pushPay_answers (h8 : s.fd.hdr.length = 8) (hp : s.fd.pay.length < ptarget s.fd.hdr) :
    ∃ t, pushPay v s = .next t := by
  rw [pushPay_eq, if_pos ⟨h8, hp⟩]
  split_ifs with ht
  · exact ⟨_, completeFrame_of (by simpa [storePay] using h8) (by simpa [storePay] using ht)⟩
  · exact ⟨_, rfl⟩

/-- The two outcomes of `asm_take` (R131). -/
theorem asmTake_cases (a : Asm) (b : Byte) :
    (a.buf.length = 257 ∧ asmTake a b = { a with ovf := true }) ∨
    (a.buf.length ≠ 257 ∧ asmTake a b = { a with buf := a.buf ++ [b], sum := addByte a.sum b }) := by
  unfold asmTake
  split
  · rename_i h
    exact .inl ⟨h, rfl⟩
  · rename_i h
    exact .inr ⟨h, rfl⟩

/-- The last packet byte is the one at index `asm.len + 1` (R134). -/
theorem packetLast_iff (a : Asm) : packetLast a = true ↔ a.idx = a.buf.length + 1 := by simp [packetLast]

/-- The two outcomes of a pop: back to LOAD after the last byte, or one index further (R134). -/
theorem asmAdvance_cases (a : Asm) :
    (a.idx = a.buf.length + 1 ∧ asmAdvance a = { a with phase := .load, buf := [], sum := 0, idx := 0 }) ∨
    (a.idx ≠ a.buf.length + 1 ∧ asmAdvance a = { a with idx := a.idx + 1 }) := by
  unfold asmAdvance
  split
  · rename_i h
    exact .inl ⟨(packetLast_iff a).1 h, rfl⟩
  · rename_i h
    exact .inr ⟨fun e => h ((packetLast_iff a).2 e), rfl⟩

/-- The packet byte at `asm.idx` is the byte of `be16(sum) ++ buf` there (R134). -/
theorem packetByte_eq (a : Asm) : packetByte a = (be16 a.sum ++ a.buf)[a.idx]? := by
  rcases a with ⟨ph, buf, sum, idx, ovf⟩
  rcases idx with _ | _ | k <;> simp [packetByte, be16]

/-- A packet byte stands at every index up to the last one (R31). -/
theorem packetByte_isSome {a : Asm} (h : a.idx ≤ a.buf.length + 1) : ∃ b, packetByte a = some b := by
  rw [packetByte_eq]
  exact ⟨_, List.getElem?_eq_getElem (by simp [be16]; omega)⟩

/-- The three cases of `ver_take` (R117). -/
theorem verTake_cases (w : Ver) (b : Byte) :
    (w.cnt = .zero ∧ verTake w b = { w with exp := fromBe16 b (loByte w.exp), cnt := .one }) ∨
    (w.cnt = .one ∧ verTake w b = { w with exp := fromBe16 (hiByte w.exp) b, cnt := .two }) ∨
    (w.cnt = .two ∧ verTake w b = { w with sum := addByte w.sum b }) := by
  rcases w with ⟨c, e, m⟩
  cases c <;> simp [verTake]

/-! ### Presentations and fetch -/

@[simp] theorem takePort_portsOf (e : PortEvent) : takePort (portsOf e) = some (e, idlePorts) := by
  cases e <;> rfl

@[simp] theorem putBack_idle (rest : List Ports) : putBack idlePorts rest = rest := by simp [putBack]

/-- Every event of a presentation with `rst` but RESET is overridden (R93). -/
theorem takePort_rst {p : Ports} (h : p.rst = true) : takePort p = some (.rst, idlePorts) := by simp [takePort, h]

/-- Only the idle ports carry no event. -/
theorem takePort_eq_none_iff {p : Ports} : takePort p = none ↔ p = idlePorts := by
  rcases p with ⟨_ | _, _ | _, _ | _, _ | _, _ | _, _ | _⟩ <;> simp [takePort, idlePorts]

theorem fetch_nil (h : s.env.pending = []) : fetch s = (none, s) := by simp [fetch, h]

theorem fetch_cons {p : Ports} {rest : List Ports} (h : s.env.pending = p :: rest) :
    fetch s = match takePort p with
      | none => (none, s.setPending rest)
      | some (e, p') => (some e, s.setPending (putBack p' rest)) := by
  unfold fetch
  rw [h] <;> rfl

/-- A single event presented first is the one fetched. -/
theorem fetch_portsOf {e : PortEvent} {rest : List Ports} (h : s.env.pending = portsOf e :: rest) :
    fetch s = (some e, s.setPending rest) := by simp [fetch_cons h]

/-- Fetching takes presentations and changes nothing else. -/
theorem fetch_state (s : State) : (fetch s).2 = s.setPending (fetch s).2.env.pending := by
  unfold fetch
  split
  · rfl
  · split <;> rfl

end Sys2Proof.Machine
end

