-- ==== Sys2Proof/Laws/PerInstr.lean ====
section
/-! SUPPORT. The per-instruction family RoundTrip: the canonical word of a well-formed operation selects it in every FD state
in which the map of R92 selects it (R86, R87, R88, R92). -/

namespace Sys2Proof.Laws

/-- Decoding the canonical event of `i` gives `i` back. -/
def RoundTrip.Statement (i : Instr) : Prop :=
  i.wellFormed = true → ∀ st, i.selectedIn st = true → decode st (encode i) = i

theorem RoundTrip.fdHuntNone : RoundTrip.Statement .fdHuntNone := by
  intro hw st hs
  cases st <;> simp_all [Instr.wellFormed, Instr.selectedIn, decode, encode, decodeNone]

theorem RoundTrip.fdHuntSof : RoundTrip.Statement .fdHuntSof := by
  intro hw st hs
  cases st <;> simp_all [Instr.wellFormed, Instr.selectedIn, decode, encode, decodeByte]

theorem RoundTrip.fdHuntStray (b : Byte) : RoundTrip.Statement (.fdHuntStray b) := by
  intro hw st hs
  cases st <;> simp_all [Instr.wellFormed, Instr.selectedIn, decode, encode, decodeByte]

theorem RoundTrip.fdHdrNone : RoundTrip.Statement .fdHdrNone := by
  intro hw st hs
  cases st <;> simp_all [Instr.wellFormed, Instr.selectedIn, decode, encode, decodeNone]

theorem RoundTrip.fdHdrEsc : RoundTrip.Statement .fdHdrEsc := by
  intro hw st hs
  cases st <;> simp_all [Instr.wellFormed, Instr.selectedIn, decode, encode, decodeByte]

theorem RoundTrip.fdHdrLit (b : Byte) : RoundTrip.Statement (.fdHdrLit b) := by
  intro hw st hs
  cases st <;> simp_all [Instr.wellFormed, Instr.selectedIn, decode, encode, decodeByte]

theorem RoundTrip.fdHdrEscNone : RoundTrip.Statement .fdHdrEscNone := by
  intro hw st hs
  cases st <;> simp_all [Instr.wellFormed, Instr.selectedIn, decode, encode, decodeNone]

theorem RoundTrip.fdHdrEscAny (b : Byte) : RoundTrip.Statement (.fdHdrEscAny b) := by
  intro hw st hs
  cases st <;> simp_all [Instr.wellFormed, Instr.selectedIn, decode, encode, decodeByte]

theorem RoundTrip.fdStop0None : RoundTrip.Statement .fdStop0None := by
  intro hw st hs
  cases st <;> simp_all [Instr.wellFormed, Instr.selectedIn, decode, encode, decodeNone]

theorem RoundTrip.fdStop0Any (b : Byte) : RoundTrip.Statement (.fdStop0Any b) := by
  intro hw st hs
  cases st <;> simp_all [Instr.wellFormed, Instr.selectedIn, decode, encode, decodeByte]

theorem RoundTrip.fdStop1None : RoundTrip.Statement .fdStop1None := by
  intro hw st hs
  cases st <;> simp_all [Instr.wellFormed, Instr.selectedIn, decode, encode, decodeNone]

theorem RoundTrip.fdStop1Any (b : Byte) : RoundTrip.Statement (.fdStop1Any b) := by
  intro hw st hs
  cases st <;> simp_all [Instr.wellFormed, Instr.selectedIn, decode, encode, decodeByte]

theorem RoundTrip.fdPayNone : RoundTrip.Statement .fdPayNone := by
  intro hw st hs
  cases st <;> simp_all [Instr.wellFormed, Instr.selectedIn, decode, encode, decodeNone]

theorem RoundTrip.fdPayEsc : RoundTrip.Statement .fdPayEsc := by
  intro hw st hs
  cases st <;> simp_all [Instr.wellFormed, Instr.selectedIn, decode, encode, decodeByte]

theorem RoundTrip.fdPayLit (b : Byte) : RoundTrip.Statement (.fdPayLit b) := by
  intro hw st hs
  cases st <;> simp_all [Instr.wellFormed, Instr.selectedIn, decode, encode, decodeByte]

theorem RoundTrip.fdPayEscNone : RoundTrip.Statement .fdPayEscNone := by
  intro hw st hs
  cases st <;> simp_all [Instr.wellFormed, Instr.selectedIn, decode, encode, decodeNone]

theorem RoundTrip.fdPayEscAny (b : Byte) : RoundTrip.Statement (.fdPayEscAny b) := by
  intro hw st hs
  cases st <;> simp_all [Instr.wellFormed, Instr.selectedIn, decode, encode, decodeByte]

theorem RoundTrip.fdAbort : RoundTrip.Statement .fdAbort := by
  intro _ st _
  simp [decode, encode]

theorem RoundTrip.asmPush (b : Byte) : RoundTrip.Statement (.asmPush b) := by
  intro _ st _
  simp [decode, encode]

theorem RoundTrip.asmPushL (b : Byte) : RoundTrip.Statement (.asmPushL b) := by
  intro _ st _
  simp [decode, encode]

theorem RoundTrip.asmPop : RoundTrip.Statement .asmPop := by
  intro _ st _
  simp [decode, encode]

theorem RoundTrip.verPush (b : Byte) : RoundTrip.Statement (.verPush b) := by
  intro _ st _
  simp [decode, encode]

theorem RoundTrip.verPushL (b : Byte) : RoundTrip.Statement (.verPushL b) := by
  intro _ st _
  simp [decode, encode]

theorem RoundTrip.cksClear : RoundTrip.Statement .cksClear := by
  intro _ st _
  simp [decode, encode]

theorem RoundTrip.cksAdd (b : Byte) : RoundTrip.Statement (.cksAdd b) := by
  intro _ st _
  simp [decode, encode]

theorem RoundTrip.reset : RoundTrip.Statement .reset := by
  intro _ st _
  simp [decode, encode]

end Sys2Proof.Laws
end

