-- ==== Sys2Proof/Laws/Step.lean ====
section
/-! SUPPORT. What one step can do: it waits, or it runs the operation that the fetched event selects. -/

namespace Sys2Proof.Machine

variable {s t : State}

/-- A step answers next only by waiting or by running a decoded operation after the fetch, which changes the presentations alone. -/
theorem step_next (h : step s = .next t) :
    (∃ ps, t = s.setPending ps) ∨
    (∃ e ps, fetch s = (some e, s.setPending ps) ∧ exec (decode s.fd.state e) (s.setPending ps) = .next t) := by
  have hs := fetch_state s
  unfold step at h
  split at h
  · rename_i s' hf
    rw [hf] at hs
    injection h with h
    exact .inl ⟨s'.env.pending, h ▸ hs⟩
  · rename_i e s' hf
    rw [hf] at hs
    refine .inr ⟨e, s'.env.pending, by rw [hf]; exact congrArg _ hs, ?_⟩
    rw [show s' = s.setPending s'.env.pending from hs] at h
    simpa using h

/-- A single event presented first is the one a step runs (R12). -/
theorem step_portsOf {e : PortEvent} {rest : List Ports} (h : s.env.pending = portsOf e :: rest) :
    step s = exec (decode s.fd.state e) (s.setPending rest) := by
  simp [step, fetch_portsOf h]

end Sys2Proof.Machine
end

