-- ==== Sys2Proof/Laws/Run.lean ====
section
/-! SUPPORT. Runs of several steps: the empty run, one step more, and two runs in a row. -/

namespace Sys2Proof.Machine

variable {k l : Nat} {s t u : State}

theorem run_zero (s : State) : RunsTo 0 s s := rfl

/-- After the end of a run a step takes an idle presentation, if one is left, and changes nothing else (R277). -/
theorem step_of_runEnded (h : RunEnded s) : step s = .next (s.setPending s.env.pending.tail) := by
  cases hp : s.env.pending with
  | nil =>
    have hs : s = s.setPending [] := by rw [← hp]; rfl
    rw [step, fetch_nil hp]
    exact congrArg _ hs
  | cons p rest => rw [step, fetch_cons hp, h.1 p (hp ▸ List.mem_cons_self)]; rfl

/-- A run that has ended stays ended. -/
theorem runEnded_step (h : RunEnded s) (ht : step s = .next t) : RunEnded t := by
  rw [step_of_runEnded h] at ht
  cases ht
  exact ⟨fun p hp => h.1 p (List.mem_of_mem_tail hp), h.2⟩

/-- One step, then a run. -/
theorem run_succ (h : step s = .next t) (h' : RunsTo k t u) : RunsTo (k + 1) s u := by
  have h : Sys2Proof.core.step s = .next t := h
  simp only [RunsTo, Host.Core.run, h]
  exact h'

/-- Two runs in a row. -/
theorem run_add (h : RunsTo k s t) (h' : RunsTo l t u) : RunsTo (k + l) s u := by
  induction k generalizing s with
  | zero =>
    cases h
    simpa using h'
  | succ k ih =>
    simp only [RunsTo, Host.Core.run] at h
    split at h
    · rename_i s' hs
      rw [Nat.add_right_comm]
      exact run_succ hs (ih h)
    · cases h
    · cases h

/-- A run whose first step takes a single event presented first (R12). -/
theorem run_portsOf {e : PortEvent} {rest : List Ports} (hp : s.env.pending = portsOf e :: rest)
    (h : exec (decode s.fd.state e) (s.setPending rest) = .next t) (h' : RunsTo k t u) : RunsTo (k + 1) s u :=
  run_succ ((step_portsOf hp).trans h) h'

end Sys2Proof.Machine
end

