-- ==== Sys2Proof/Laws/Views.lean ====
section
/-! SUPPORT. The views of a fixed width lose nothing: in a state that meets the invariants each reads as the number it shows. -/

namespace Sys2Proof.Machine

variable {s : State}

/-- `asm.len` is at most 257 (R29). -/
theorem asmLen_toNat (h : AsmInv s.asm) : (asmLen s).toNat = s.asm.buf.length := by
  have := h.1
  simp only [asmLen, BitVec.toNat_ofNat]
  omega

/-- `asm.idx` is at most `asm.len + 1`, so at most 258 (R31). -/
theorem asm_idx_le (h : AsmInv s.asm) : s.asm.idx ≤ s.asm.buf.length + 1 := by
  cases hp : s.asm.phase with
  | load => exact (h.2.2.1 hp).symm ▸ Nat.zero_le _
  | emit => exact (h.2.2.2.1 hp).2.1

theorem asmIdx_toNat (h : AsmInv s.asm) : (asmIdx s).toNat = s.asm.idx := by
  have := h.1
  have := asm_idx_le h
  simp only [asmIdx, BitVec.toNat_ofNat]
  omega

/-- `fd.hlen` is at most 8 (R36). -/
theorem fd_hdr_length_le (h : FdInv s.fd) : s.fd.hdr.length ≤ 8 := by
  cases hs : s.fd.state with
  | hunt => exact (h.1 hs).1.le.trans (by decide)
  | hdr => exact (h.2.1 (.inl hs)).1.trans (by decide)
  | hdrEsc => exact (h.2.1 (.inr hs)).1.trans (by decide)
  | stop0 => exact (h.2.2.1 (.inl hs)).1.le.trans (by decide)
  | stop1 => exact (h.2.2.1 (.inr hs)).1.le.trans (by decide)
  | pay => exact (h.2.2.2 (.inl hs)).1.le
  | payEsc => exact (h.2.2.2 (.inr hs)).1.le

theorem fdHlen_toNat (h : FdInv s.fd) : (fdHlen s).toNat = s.fd.hdr.length := by
  have := fd_hdr_length_le h
  simp only [fdHlen, BitVec.toNat_ofNat]
  omega

/-- `fd.plen` is at most 250 between steps (R38). -/
theorem fd_pay_length_le (h : FdInv s.fd) : s.fd.pay.length ≤ 250 := by
  have := ptarget_le s.fd.hdr
  cases hs : s.fd.state with
  | hunt => have := (h.1 hs).2; omega
  | hdr => have := (h.2.1 (.inl hs)).2.1; omega
  | hdrEsc => have := (h.2.1 (.inr hs)).2.1; omega
  | stop0 => have := (h.2.2.1 (.inl hs)).2.1; omega
  | stop1 => have := (h.2.2.1 (.inr hs)).2.1; omega
  | pay => have := (h.2.2.2 (.inl hs)).2.1; omega
  | payEsc => have := (h.2.2.2 (.inr hs)).2.1; omega

theorem fdPlen_toNat (h : FdInv s.fd) : (fdPlen s).toNat = s.fd.pay.length := by
  have := fd_pay_length_le h
  simp only [fdPlen, BitVec.toNat_ofNat]
  omega

/-- While the payload is collected `fd_ptarget` is the length it will have (R39). -/
theorem fdPtarget_pay (h : FdInv s.fd) (hs : s.fd.state = .pay ∨ s.fd.state = .payEsc) :
    fdPtarget s = some (ptarget s.fd.hdr) := if_pos (h.2.2.2 hs).1

end Sys2Proof.Machine
end

