-- ==== Sys2Proof/Tests/Slice0.lean ====
section
/-! SUPPORT. The model's own tests. Expected results come from the encoding tables of 30_encoding.md and the vectors of
95_test_vectors.md, named in each docstring. The witnesses show that the hypotheses of the statements can be met. -/

namespace Sys2Proof.Tests

open Sys2Proof Sys2Proof.Machine

/-! ### Helpers -/

/-- The state a step leaves, if it leaves one. -/
def after : Host.Outcome State Fault Refusal → Option State
  | .next s => some s
  | .fault _ | .refused _ => none

/-- FD in a given state, all else at reset. -/
def fdAt (st : FdState) (hdr pay : List Byte) : State := State.reset.setFd { state := st, hdr := hdr, pay := pay }

/-- The state with one event presented. -/
def offer (s : State) (e : PortEvent) : State := s.setPending [portsOf e]

/-- FD after one event presented to it. -/
def fdAfter (s : State) (w : BitVec 10) : Option Fd := (after (step (offer s (.fdEv w)))).map State.fd

/-- The queues of FD after one event presented to it: DATAQ, CHANQ, RESQ. -/
def queuesAfter (s : State) (w : BitVec 10) : Option (List (BitVec 16) × List (BitVec 9) × List (BitVec 12)) :=
  (after (step (offer s (.fdEv w)))).map fun t => (t.env.dataq, t.env.chanq, t.env.resq)

/-- ASM with a given command in its buffer. -/
def asmAt (phase : AsmPhase) (buf : List Byte) (idx : Nat) : State :=
  State.reset.setAsm { phase := phase, buf := buf, sum := cksum16 buf, idx := idx, ovf := false }

/-- The header of vector F1. -/
def hdrF1 : List Byte := [0x00, 0x24, 0x19, 0x06, 0x02, 0x00, 0x00, 0x00]

/-- The header of vector F2. -/
def hdrF2 : List Byte := [0x03, 0x1A, 0x19, 0x08, 0x01, 0x00, 0x00, 0x00]

/-! ### WellFormed: an ill-formed term for each check (R92) -/

theorem test_wf_refuses_stray_delimiter : (Instr.fdHuntStray 0x7E).wellFormed = false := by decide
theorem test_wf_refuses_header_literal_marker : (Instr.fdHdrLit 0x7D).wellFormed = false := by decide
theorem test_wf_refuses_payload_literal_marker : (Instr.fdPayLit 0x7D).wellFormed = false := by decide
theorem test_wf_takes_neighbours :
    (Instr.fdHuntStray 0x7D).wellFormed = true ∧ (Instr.fdHdrLit 0x7E).wellFormed = true ∧
    (Instr.fdPayLit 0x7E).wellFormed = true := by decide

/-! ### Decode: one word of every operation, written out from R86 to R88 and the table of R92 -/

theorem test_decode_fdHuntNone : decode .hunt (.fdEv 0b00_0000_0000) = .fdHuntNone := by decide
theorem test_decode_fdHuntSof : decode .hunt (.fdEv 0b01_0111_1110) = .fdHuntSof := by decide
theorem test_decode_fdHuntStray : decode .hunt (.fdEv 0b01_0100_0001) = .fdHuntStray 0x41 := by decide
theorem test_decode_fdHdrNone : decode .hdr (.fdEv 0b00_1111_1111) = .fdHdrNone := by decide
theorem test_decode_fdHdrEsc : decode .hdr (.fdEv 0b01_0111_1101) = .fdHdrEsc := by decide
theorem test_decode_fdHdrLit : decode .hdr (.fdEv 0b01_0111_1110) = .fdHdrLit 0x7E := by decide
theorem test_decode_fdHdrEscNone : decode .hdrEsc (.fdEv 0b00_0000_0000) = .fdHdrEscNone := by decide
theorem test_decode_fdHdrEscAny : decode .hdrEsc (.fdEv 0b01_0101_1110) = .fdHdrEscAny 0x5E := by decide
theorem test_decode_fdStop0None : decode .stop0 (.fdEv 0b00_0000_0000) = .fdStop0None := by decide
theorem test_decode_fdStop0Any : decode .stop0 (.fdEv 0b01_0111_1110) = .fdStop0Any 0x7E := by decide
theorem test_decode_fdStop1None : decode .stop1 (.fdEv 0b00_0000_0000) = .fdStop1None := by decide
theorem test_decode_fdStop1Any : decode .stop1 (.fdEv 0b01_0111_1101) = .fdStop1Any 0x7D := by decide
theorem test_decode_fdPayNone : decode .pay (.fdEv 0b00_0000_0000) = .fdPayNone := by decide
theorem test_decode_fdPayEsc : decode .pay (.fdEv 0b01_0111_1101) = .fdPayEsc := by decide
theorem test_decode_fdPayLit : decode .pay (.fdEv 0b01_1111_1111) = .fdPayLit 0xFF := by decide
theorem test_decode_fdPayEscNone : decode .payEsc (.fdEv 0b00_0000_0000) = .fdPayEscNone := by decide
theorem test_decode_fdPayEscAny : decode .payEsc (.fdEv 0b01_0101_1101) = .fdPayEscAny 0x5D := by decide
theorem test_decode_fdAbort : decode .payEsc (.fdEv 0b11_0100_0001) = .fdAbort := by decide
theorem test_decode_asmPush : decode .hunt (.asmIn 0b0_0001_0010) = .asmPush 0x12 := by decide
theorem test_decode_asmPushL : decode .hunt (.asmIn 0b1_0000_0101) = .asmPushL 0x05 := by decide
theorem test_decode_asmPop : decode .hunt .asmOut = .asmPop := by decide
theorem test_decode_verPush : decode .hunt (.verIn 0b0_0001_1000) = .verPush 0x18 := by decide
theorem test_decode_verPushL : decode .hunt (.verIn 0b1_0000_0101) = .verPushL 0x05 := by decide
theorem test_decode_cksClear : decode .hunt (.cksIn 0b1_0001_0010) = .cksClear := by decide
theorem test_decode_cksAdd : decode .hunt (.cksIn 0b0_0001_0010) = .cksAdd 0x12 := by decide
theorem test_decode_reset : decode .hunt .rst = .reset := by decide

/-- The words of spec/opcode_table.json that name their row without a port or a state (log entry 11). -/
theorem test_table_words :
    decodeTableWord 16 0x000 = some .fdHuntNone ∧ decodeTableWord 16 0x17E = some .fdHuntSof ∧
    decodeTableWord 16 0x141 = some (.fdHuntStray 0x41) ∧ decodeTableWord 16 0x17D = some .fdHdrEsc ∧
    decodeTableWord 16 0x200 = some .fdAbort ∧ decodeTableWord 0 0 = some .reset := by decide

/-- A step after `withFetchWord` runs the operation of the word: FD.HDR.ESC from reset needs FD in HDR (log entry 11). -/
theorem test_withFetchWord :
    (after (step (State.reset.withFetchWord 16 0x17D))).map State.fd = some { state := .hdrEsc, hdr := [], pay := [] } ∧
    (after (step (State.reset.withFetchWord 16 0x17E))).map State.fd = some { state := .hdr, hdr := [], pay := [] } := by
  decide

/-! ### Unit FD, state HUNT -/

/-- Vector T3. -/
theorem test_fdHuntNone : queuesAfter State.reset 0x000 = some ([], [], [0x000]) := by decide
/-- Vector F1, first byte. -/
theorem test_fdHuntSof : fdAfter State.reset 0x17E = some { state := .hdr, hdr := [], pay := [] } := by decide
/-- Vector T1. -/
theorem test_fdHuntStray : queuesAfter State.reset 0x141 = some ([65], [], [0x801]) := by decide
/-- Vector T4: stray bytes are unsigned. -/
theorem test_fdHuntStray_unsigned : queuesAfter State.reset 0x1FF = some ([255], [], [0x801]) := by decide

/-! ### Unit FD, header -/

/-- Program P2, step 6. -/
theorem test_fdHdrNone :
    (after (step (offer (fdAt .hdr [0x03, 0x1A] []) (.fdEv 0x000)))).map (fun t => (t.fd.hdr, t.env.resq)) =
      some ([0x03, 0x1A], [0x000]) := by decide
/-- Vector M3. -/
theorem test_fdHdrEsc : fdAfter (fdAt .hdr [0x10] []) 0x17D = some { state := .hdrEsc, hdr := [0x10], pay := [] } := by
  decide
/-- Vector S1: the third byte 50 starts the stop frame. -/
theorem test_fdHdrLit_stop :
    fdAfter (fdAt .hdr [0x00, 0x52] []) 0x150 = some { state := .stop0, hdr := [0x00, 0x52, 0x50], pay := [] } := by decide
/-- Vector F5: the eighth byte of a frame whose length byte is 3 ends it, with `len_uf`. -/
theorem test_fdHdrLit_end :
    queuesAfter (fdAt .hdr [0x00, 0x21, 0x19, 0x03, 0x05, 0x00, 0x00] []) 0x100 = some ([], [4], [0x680]) := by decide
/-- Vector M3. -/
theorem test_fdHdrEscNone :
    (after (step (offer (fdAt .hdrEsc [0x10] []) (.fdEv 0x000)))).map (fun t => (t.fd.state, t.env.resq)) =
      some (.hdrEsc, [0x000]) := by decide
/-- Vector M3b. -/
theorem test_fdHdrEscAny :
    fdAfter (fdAt .hdrEsc [0x10] []) 0x15E = some { state := .hdr, hdr := [0x10, 0x7E], pay := [] } := by decide
/-- Vector S2: the stop value through an escape pair. -/
theorem test_fdHdrEscAny_stop :
    fdAfter (fdAt .hdrEsc [0x00, 0x00] []) 0x170 = some { state := .stop0, hdr := [0x00, 0x00, 0x50], pay := [] } := by decide

/-! ### Unit FD, stop tail -/

/-- R194. -/
theorem test_fdStop0None : queuesAfter (fdAt .stop0 [0x00, 0x00, 0x50] []) 0x000 = some ([], [], [0x000]) := by decide
/-- Vector S3: the tail is read raw. -/
theorem test_fdStop0Any :
    fdAfter (fdAt .stop0 [0x00, 0x00, 0x50] []) 0x17D = some { state := .stop1, hdr := [0x00, 0x00, 0x50], pay := [] } := by
  decide
/-- R196. -/
theorem test_fdStop1None : queuesAfter (fdAt .stop1 [0x00, 0x00, 0x50] []) 0x000 = some ([], [], [0x000]) := by decide
/-- Vector S3. -/
theorem test_fdStop1Any : queuesAfter (fdAt .stop1 [0x00, 0x00, 0x50] []) 0x17E = some ([], [125], [0xC00]) := by decide
/-- Vector S4: channel number 0. -/
theorem test_fdStop1Any_zero : queuesAfter (fdAt .stop1 [0x00, 0x00, 0x50] []) 0x100 = some ([], [0x1FF], [0xC00]) := by
  decide

/-! ### Unit FD, payload -/

/-- R199. -/
theorem test_fdPayNone :
    (after (step (offer (fdAt .pay hdrF1 [0x01]) (.fdEv 0x0FF)))).map (fun t => (t.fd.pay, t.env.resq)) =
      some ([0x01], [0x000]) := by decide
/-- Program P2, step 13. -/
theorem test_fdPayEsc : fdAfter (fdAt .pay hdrF2 []) 0x17D = some { state := .payEsc, hdr := hdrF2, pay := [] } := by decide
/-- Vector F1, last byte: sample 258, channel 1, a good checksum. -/
theorem test_fdPayLit : queuesAfter (fdAt .pay hdrF1 [0x01]) 0x102 = some ([258], [1], [0x601]) := by decide
/-- Vector F6, last byte: the unpaired byte is summed and not decoded. -/
theorem test_fdPayLit_odd :
    queuesAfter (fdAt .pay [0x00, 0x28, 0x19, 0x07, 0x02, 0x00, 0x00, 0x00] [0x01, 0x02]) 0x103 = some ([258], [1], [0x701]) := by
  decide
/-- Program P2, step 14. -/
theorem test_fdPayEscNone : queuesAfter (fdAt .payEsc hdrF2 []) 0x000 = some ([], [], [0x000]) := by decide
/-- Program P2, step 15. -/
theorem test_fdPayEscAny : fdAfter (fdAt .payEsc hdrF2 []) 0x15E = some { state := .pay, hdr := hdrF2, pay := [0x7E] } := by
  decide
/-- Vector M4: an abort leaves no trace. -/
theorem test_fdAbort : after (step (offer (fdAt .hdr [0x10, 0x20, 0x30] []) (.fdEv 0x200))) = some State.reset := by decide

/-! ### Unit ASM -/

/-- Program P1, step 1. -/
theorem test_asmPush :
    (after (step (offer State.reset (.asmIn 0x012)))).map State.asm =
      some { phase := .load, buf := [0x12], sum := 0x0012, idx := 0, ovf := false } := by decide
/-- Vector A6: a push in EMIT is held. -/
theorem test_asmPush_held :
    (after (step (offer (asmAt .emit [0x01, 0x02] 0) (.asmIn 0x033)))).map (fun t => (t.asm, t.env.asmrq, t.env.txq)) =
      some ({ phase := .emit, buf := [0x01, 0x02], sum := 0x0003, idx := 0, ovf := false }, [], []) := by decide
/-- Program P1, step 3. -/
theorem test_asmPushL :
    (after (step (offer (asmAt .load [0x12, 0x01] 0) (.asmIn 0x105)))).map (fun t => (t.asm, t.env.asmrq)) =
      some ({ phase := .emit, buf := [0x12, 0x01, 0x05], sum := 0x0018, idx := 0, ovf := false }, [.built]) := by decide
/-- Vector A5, the 258th byte: OVERFLOW and everything cleared. -/
theorem test_asmPushL_overflow :
    (after (step (offer (asmAt .load (List.replicate 257 0xFF) 0) (.asmIn 0x1FF)))).map (fun t => (t.asm, t.env.asmrq)) =
      some (Asm.reset, [.overflow]) := by decide +kernel
/-- Program P1, step 5. -/
theorem test_asmPop :
    (after (step (offer (asmAt .emit [0x12, 0x01, 0x05] 1) .asmOut))).map (fun t => (t.asm.idx, t.env.txq)) =
      some (2, [0x018]) := by decide
/-- Program P1, step 8: the last word is marked and ASM is back at reset. -/
theorem test_asmPop_last :
    (after (step (offer (asmAt .emit [0x12, 0x01, 0x05] 4) .asmOut))).map (fun t => (t.asm, t.env.txq)) =
      some (Asm.reset, [0x105]) := by decide

/-! ### Units VER and CKS, RESET -/

/-- Program P1, step 10. -/
theorem test_verPush :
    (after (step (offer (State.reset.setVer { cnt := .one, exp := 0, sum := 0 }) (.verIn 0x018)))).map State.ver =
      some { cnt := .two, exp := 0x0018, sum := 0 } := by decide
/-- Vector V6, first byte: the high byte comes first. -/
theorem test_verPush_high :
    (after (step (offer State.reset (.verIn 0x018)))).map State.ver = some { cnt := .one, exp := 0x1800, sum := 0 } := by decide
/-- Program P1, step 13. -/
theorem test_verPushL :
    (after (step (offer (State.reset.setVer { cnt := .two, exp := 0x0018, sum := 0x0013 }) (.verIn 0x105)))).map
      (fun t => (t.ver, t.env.verq)) = some (Ver.reset, [.ok]) := by decide
/-- Vector V3. -/
theorem test_verPushL_short :
    (after (step (offer State.reset (.verIn 0x100)))).map (fun t => (t.ver, t.env.verq)) =
      some (Ver.reset, [.lengthShort]) := by decide
/-- `CCLR` from 0x1234. -/
theorem test_cksClear : after (step (offer (State.reset.setCks { acc := 0x1234 }) (.cksIn 0x100))) = some State.reset := by
  decide
/-- `CADD 01` from 0xFFFF. -/
theorem test_cksAdd_wraps :
    (after (step (offer (State.reset.setCks { acc := 0xFFFF }) (.cksIn 0x001)))).map State.cks = some { acc := 0 } := by decide
/-- `CADD FF` from 0xFF80. -/
theorem test_cksAdd :
    (after (step (offer (State.reset.setCks { acc := 0xFF80 }) (.cksIn 0x0FF)))).map State.cks = some { acc := 0x007F } := by
  decide
/-- 95_test_vectors.md section 2.8: the queues stay, the units go back. -/
theorem test_reset :
    (after (step (offer ((fdAt .hdrEsc [0x10] []).addTx 0x000) .rst))) = some (State.reset.addTx 0x000) := by decide

/-! ### Datapath functions (95_test_vectors.md sections 2.1 and 2.4) -/

theorem test_cksum16_wraps : cksum16 (List.replicate 258 0xFF) = 0x00FE := by decide +kernel
theorem test_escape : escape [0x01, 0x7E, 0x7D, 0x5E] = [0x01, 0x7D, 0x5E, 0x7D, 0x5D, 0x5E] := by decide
theorem test_unescape : unescape [0x7D, 0x7D, 0x7D, 0x5E] = [0x5D, 0x7E] := by decide
theorem test_samplesOf : samplesOf [0x7E, 0x7D, 0xFF, 0xFE] = [32381, -2] := by decide
theorem test_ptarget_ff : ptarget [0, 0, 0, 0xFF, 0, 0, 0, 0] = 251 := by decide
/-- Vectors V7 and V8: a one-byte response of declared length 1 decodes, one of declared length 2 is a LengthError (R157). -/
theorem test_response :
    ((checkResponse [0x00, 0x3D, 0x12, 0x01, 0x2A] [{ signed := false, size := .one }]).toOption = some [42]) ∧
    ((checkResponse [0x00, 0x3E, 0x12, 0x02, 0x2A] [{ signed := false, size := .one }]).toOption = none) := by decide

/-! ### Witnesses: the hypotheses of the statements are met, clause by clause, at boundary values -/

theorem witness_FdEventWordNamesItsEvent :
    ((0x3FF#10).getLsbD 9 = true ∧ (0x200#10).getLsbD 9 = true) ∧
    ((0x0FF#10).getLsbD 9 = false ∧ (0x0FF#10).getLsbD 8 = false) ∧
    ((0x1FF#10).getLsbD 9 = false ∧ (0x1FF#10).getLsbD 8 = true) := by decide

theorem witness_DecodeEncodeGivesTheOperation :
    (Instr.fdHuntStray 0x7F).wellFormed = true ∧ (Instr.fdHuntStray 0x7F).selectedIn .hunt = true ∧
    (Instr.fdPayLit 0x7E).wellFormed = true ∧ (Instr.fdPayLit 0x7E).selectedIn .pay = true ∧
    Instr.asmPop.wellFormed = true ∧ Instr.asmPop.selectedIn .stop1 = true := by decide

theorem witness_DecodeSeparatesCanonicalEvents : decode .hunt (.fdEv 0x000) = decode .hunt (.fdEv 0x0FF) := by decide

theorem witness_StepRunsThePresentedEvent :
    (offer State.reset (.fdEv 0x17E)).env.pending = [portsOf (.fdEv 0x17E)] ∧
    takePort { portsOf (.fdEv 0x17E) with cksIn := some 0x001 } = some (.fdEv 0x17E, portsOf (.cksIn 0x001)) ∧
    portsOf (.cksIn 0x001) ≠ idlePorts ∧
    State.reset.env.pending = [] := by decide

/-- The clause of a presentation with `rst`: a delimiter is presented beside it. -/
theorem witness_StepRunsThePresentedEvent_rst :
    ((fdAt .hdr [0x10] []).setPending [{ portsOf (.fdEv 0x17E) with rst := true }]).env.pending =
      { portsOf (.fdEv 0x17E) with rst := true } :: [] ∧
    { portsOf (.fdEv 0x17E) with rst := true }.rst = true := by decide

/-- A held event is still to be presented, so the run has not ended (R277, R135). -/
theorem test_held_event_is_no_clean_end :
    (after (step (offer State.reset .asmOut))).map (fun t => decide (CleanEnd t)) = some false := by decide

/-- Idle ports carry no event, so a run with nothing else left has ended; a presented event goes on with it (R277). -/
theorem test_idle_presentation_is_clean_end :
    CleanEnd (State.reset.setPending [idlePorts]) ∧ ¬ RunEnded (offer State.reset (.fdEv 0x000)) := by decide

/-- Vector T1 as an invocation: code 2. Without a byte to examine no invocation completes (R213, log entry 17). -/
theorem test_invoke :
    ((invoke 2 (offer State.reset (.fdEv 0x141))).bind after).map (fun t => t.env.resq) = some [0x801] ∧
    invoke 2 (offer State.reset (.cksIn 0x001)) = none := ⟨by decide, rfl⟩

/-- An abort word with a byte: the byte 41 is not taken (95_test_vectors.md section 2.7) and not kept (log entry 16). -/
theorem test_abort_word_with_byte :
    after (step (offer (fdAt .hdr [0x10] []) (.fdEv 0x341))) = some State.reset := by decide

/-- `fd_ptarget` has a value on the eighth header byte and none before (R39, log entry 15). -/
theorem test_fdPtarget :
    fdPtarget (fdAt .pay hdrF1 []) = some 2 ∧ fdPtarget (fdAt .hdr [0x00, 0x24, 0x19, 0x06] []) = none := by decide

theorem witness_CksClearZeroes : exec .cksClear (State.reset.setCks { acc := 0xFFFF }) = .next State.reset := rfl

theorem witness_VerPushTakesTheByte :
    State.reset.ver.cnt = .zero ∧ (State.reset.setVer { cnt := .one, exp := 0xFF00, sum := 0 }).ver.cnt = .one ∧
    (State.reset.setVer { cnt := .two, exp := 0, sum := 0xFFFF }).ver.cnt = .two := by decide

theorem witness_VerRealizesVerify :
    ([0x00] : List Byte) ≠ [] ∧ State.reset.ver = Ver.reset ∧
    (State.reset.setPending (traceVbuf [0x00])).env.pending = traceVbuf [0x00] ++ [] ∧
    (State.reset.setPending (traceVbuf [0x00, 0x18, 0x12])).env.pending = traceVbuf [0x00, 0x18, 0x12] ++ [] := by decide

theorem witness_CksRealizesTheChecksum :
    (State.reset.setPending (traceCsum [])).env.pending = traceCsum [] ++ [] ∧
    (State.reset.setPending (traceCsum [0xFF, 0x02])).env.pending = traceCsum [0xFF, 0x02] ++ [] := by decide

theorem witness_ChecksumLaws :
    ([0x01, 0x02] : List Byte).Perm [0x02, 0x01] ∧ (List.replicate 257 (0xFF#8)).length ≤ 257 := by decide +kernel

theorem witness_StreamChecksumIsVerify : hdrF1.length = 8 := by decide

theorem witness_AsmPushAndPushLInLoad :
    (asmAt .load [] 0).asm.phase = .load ∧ (asmAt .load (List.replicate 256 0xFF) 0).asm.phase = .load ∧
    (asmAt .load (List.replicate 257 0xFF) 0).asm.phase = .load ∧
    (asmAt .load (List.replicate 256 0xFF) 0).asm.buf.length = 256 ∧
    (asmAt .load (List.replicate 257 0xFF) 0).asm.buf.length = 257 := by decide +kernel

theorem witness_AsmPopEmitsThePacketByte :
    (asmAt .emit [0x7E] 0).asm.phase = .emit ∧ (asmAt .emit [0x7E] 0).asm.idx ≤ (asmAt .emit [0x7E] 0).asm.buf.length + 1 ∧
    (asmAt .emit [0x7E] 2).asm.idx = (asmAt .emit [0x7E] 2).asm.buf.length + 1 := by decide

theorem witness_AsmHeldEventChangesNothing :
    (asmAt .emit [0x01, 0x02] 1).asm.phase = .emit ∧ (asmAt .load [] 0).asm.phase = .load := by decide

theorem witness_AsmRealizesBuildPacket :
    1 ≤ ([0x7E] : List Byte).length ∧ ([0x7E] : List Byte).length ≤ 257 ∧ (List.replicate 257 (0xFF#8)).length ≤ 257 ∧
    State.reset.asm = Asm.reset ∧
    (State.reset.setPending (traceCmd [0x7E] ++ List.replicate 3 traceApop)).env.pending =
      traceCmd [0x7E] ++ List.replicate (1 + 2) traceApop ++ [] := by decide +kernel

theorem witness_FdPollWithoutByteReportsIdle :
    (FdState.payEsc, Instr.fdPayEscNone) ∈ [(FdState.hunt, Instr.fdHuntNone), (.hdr, .fdHdrNone),
      (.hdrEsc, .fdHdrEscNone), (.stop0, .fdStop0None), (.stop1, .fdStop1None), (.pay, .fdPayNone),
      (.payEsc, .fdPayEscNone)] := by decide

theorem witness_IdlePollsOnlyReport :
    ((fdAt .hdrEsc [0x10] []).setPending (List.replicate 2 traceRxn)).env.pending = List.replicate 2 traceRxn ++ [] ∧
    State.reset.env.pending = List.replicate 0 traceRxn ++ [] := by decide

theorem witness_FdStrayByteIsReported : (0x7D#8) ≠ 0x7E#8 ∧ (0x7F#8) ≠ 0x7E#8 := by decide

/-- The four outcomes of a header byte: stop, payload of one byte, no payload, and the header going on. -/
theorem witness_FdHeaderByteIsStored :
    (0x7E#8) ≠ 0x7D#8 ∧ ([0x00, 0x52] : List Byte).length ≤ 7 ∧ ([0x00, 0x52, 80] : List Byte).getD 2 0 = 80#8 ∧
    ([0, 0, 0, 5, 0, 0, 0] : List Byte).length = 7 ∧ 4 < (([0, 0, 0, 5, 0, 0, 0, 0] : List Byte).getD 3 0).toNat ∧
    ¬ 4 < (([0, 0, 0, 4, 0, 0, 0, 0] : List Byte).getD 3 0).toNat ∧
    (fdAt .hdr [0, 0, 0, 4, 0, 0, 0] []).fd.pay = [] ∧ (fdAt .hdr [] []).fd.hdr.length ≤ 7 := by decide

/-- The two outcomes of a payload byte: the last one, and one of a payload of 251 bytes. -/
theorem witness_FdPayloadByteIsStored :
    (fdAt .pay hdrF1 [0x01]).fd.hdr.length = 8 ∧ (fdAt .pay hdrF1 [0x01]).fd.pay.length < ptarget hdrF1 ∧
    ([0x01, 0x02] : List Byte).length + 4 = (hdrF1.getD 3 0).toNat ∧
    ([] : List Byte).length < ptarget [0, 0, 0, 0xFF, 0, 0, 0, 0] := by decide

theorem witness_StepKeepsInvariants :
    FdInv (offer (fdAt .pay hdrF1 [0x01]) (.fdEv 0x102)).fd ∧ AsmInv (offer (asmAt .emit [0x7E] 2) .asmOut).asm ∧
    VerInv (offer (State.reset.setVer { cnt := .one, exp := 0x1200, sum := 0 }) (.verIn 0x034)).ver ∧
    (∃ t, step (offer (fdAt .pay hdrF1 [0x01]) (.fdEv 0x102)) = .next t) ∧
    (∃ t, step (offer (asmAt .emit [0x7E] 2) .asmOut) = .next t) ∧
    (∃ t, step (offer (State.reset.setVer { cnt := .one, exp := 0x1200, sum := 0 }) (.verIn 0x034)) = .next t) :=
  ⟨by decide, by decide, by decide, ⟨_, rfl⟩, ⟨_, rfl⟩, ⟨_, rfl⟩⟩

/-- The queues after vectors T1 and F1. -/
def queuesT1F1 : Env := { Env.reset with dataq := [65, 258], chanq := [1], resq := [0x801, 0x601] }

theorem witness_StreamQueuesPairUp : QueueInv queuesT1F1 := by
  refine ⟨?_, by decide, by decide, by decide⟩
  simp only [queuesT1F1, List.forall_mem_cons, List.not_mem_nil, false_implies, implies_true, and_true]
  exact ⟨.inr (.inl rfl), by decide⟩

theorem witness_StepKeepsQueueAccounting :
    QueueInv queuesT1F1 ∧
    ∃ t, step { offer (fdAt .pay hdrF1 [0x01]) (.fdEv 0x102) with
      env := { queuesT1F1 with pending := [portsOf (.fdEv 0x102)] } } = .next t := ⟨witness_StreamQueuesPairUp, ⟨_, rfl⟩⟩

theorem witness_StepNeverStops : UnitsInv (fdAt .stop1 [0x00, 0x00, 0x50] []) := by decide

theorem witness_QueuesAreAppendedToAndNeverRead :
    (offer State.reset (.fdEv 0x141)).fd = (offer (State.reset.addTx 0x1FF) (.fdEv 0x141)).fd ∧
    (offer State.reset (.fdEv 0x141)).env ≠ (offer (State.reset.addTx 0x1FF) (.fdEv 0x141)).env ∧
    ∃ t, step (offer State.reset (.fdEv 0x141)) = .next t := ⟨by decide, by decide, ⟨_, rfl⟩⟩

theorem witness_ReportLeavesTheUnitReady :
    (∃ t, step (offer State.reset (.verIn 0x100)) = .next t ∧ t.env.verq = [] ++ [.lengthShort]) ∧
    (∃ t, step (offer (State.reset.setAsm { (asmAt .load [0x01] 0).asm with ovf := true }) (.asmIn 0x1FF)) = .next t ∧
      t.env.asmrq = [] ++ [.overflow]) ∧
    (∃ t, step (offer State.reset (.asmIn 0x1FF)) = .next t ∧ t.env.asmrq = [] ++ [.built]) ∧
    (∃ t, step (offer State.reset (.fdEv 0x000)) = .next t ∧ t.env.resq = [] ++ [0x000] ∧ (resOfWord 0x000).code = .idle) ∧
    (∃ t, step (offer State.reset (.fdEv 0x141)) = .next t ∧ t.env.resq = [] ++ [0x801] ∧ (resOfWord 0x801).code = .stray) ∧
    (∃ t, step (offer (fdAt .pay hdrF1 [0x01]) (.fdEv 0x102)) = .next t ∧ t.env.resq = [] ++ [0x601] ∧
      (resOfWord 0x601).code = .frame) ∧
    (∃ t, step (offer (fdAt .stop1 [0x00, 0x00, 0x50] []) (.fdEv 0x100)) = .next t ∧ t.env.resq = [] ++ [0xC00] ∧
      (resOfWord 0xC00).code = .stop) :=
  ⟨⟨_, rfl, by decide⟩, ⟨_, rfl, by decide⟩, ⟨_, rfl, by decide⟩, ⟨_, rfl, by decide, by decide⟩,
    ⟨_, rfl, by decide, by decide⟩, ⟨_, rfl, by decide, by decide⟩, ⟨_, rfl, by decide, by decide⟩⟩

theorem witness_UnitsArePrivate :
    unitOf (.cksAdd 0x01) ≠ .all ∧ unitOf (.cksAdd 0x01) ≠ .fd ∧ ∃ t, exec (.cksAdd 0x01) State.reset = .next t :=
  ⟨by decide, by decide, ⟨_, rfl⟩⟩

theorem witness_UnitStepsCommute :
    unitOf (.fdHuntStray 0x41) ≠ unitOf (.verPushL 0x00) ∧ unitOf (.fdHuntStray 0x41) ≠ .all ∧
    unitOf (.verPushL 0x00) ≠ .all ∧
    ∃ s₁ s₂, exec (.fdHuntStray 0x41) State.reset = .next s₁ ∧ exec (.verPushL 0x00) s₁ = .next s₂ :=
  ⟨by decide, by decide, by decide, ⟨_, _, rfl, rfl⟩⟩

theorem witness_NoEarlyExposure :
    (offer (fdAt .pay hdrF2 []) (.fdEv 0x1FF)).env.pending = traceRx 0xFF :: [] ∧
    (fdAt .pay hdrF2 []).fd.state ≠ .hunt ∧ (fdAt .pay hdrF2 []).fd.state ≠ .stop1 ∧
    ∃ t, step (offer (fdAt .pay hdrF2 []) (.fdEv 0x1FF)) = .next t ∧ t.fd.state ≠ .hunt :=
  ⟨by decide, by decide, by decide, ⟨_, rfl, by decide⟩⟩

theorem witness_StopFrameEndsAfterTwoBytes :
    ((fdAt .stop0 [0x00, 0x00, 0x50] []).setPending (traceRxs [0x7E, 0xFF])).fd.state = .stop0 ∧
    ((fdAt .stop0 [0x00, 0x00, 0x50] []).setPending (traceRxs [0x7E, 0xFF])).env.pending =
      traceRx 0x7E :: traceRx 0xFF :: [] := by decide

theorem witness_EveryFrameEndsWithin518Bytes :
    let s := (fdAt .hdr [] []).setPending (traceRxs (List.replicate 518 0x7D))
    FdInv s.fd ∧ s.fd.state ≠ .hunt ∧ (List.replicate 518 (0x7D#8)).length = 518 ∧
    s.env.pending = traceRxs (List.replicate 518 0x7D) :=
  ⟨by decide, by decide, List.length_replicate, rfl⟩

/-- Vectors F4 (no payload) and F2 (escapes in the payload). -/
theorem witness_FullFrameIsDecoded :
    State.reset.fd = { state := .hunt, hdr := [], pay := [] } ∧
    unescape [0x00, 0x22, 0x19, 0x04, 0x05, 0x00, 0x00, 0x00] = [0x00, 0x22, 0x19, 0x04, 0x05, 0x00, 0x00, 0x00] ++ [] ∧
    0 = ptarget [0x00, 0x22, 0x19, 0x04, 0x05, 0x00, 0x00, 0x00] ∧
    unescape (hdrF2 ++ [0x7D, 0x5E, 0x7D, 0x5D, 0xFF, 0xFE]) = hdrF2 ++ [0x7E, 0x7D, 0xFF, 0xFE] ∧
    endsPending false (hdrF2 ++ [0x7D, 0x5E, 0x7D, 0x5D, 0xFF, 0xFE]) = false ∧ hdrF2.length = 8 ∧ hdrF2.getD 2 0 ≠ 80#8 ∧
    ([0x7E, 0x7D, 0xFF, 0xFE] : List Byte).length = ptarget hdrF2 ∧
    (State.reset.setPending (traceRxs (0x7E#8 :: (hdrF2 ++ [0x7D, 0x5E, 0x7D, 0x5D, 0xFF, 0xFE])))).env.pending =
      traceRxs (0x7E#8 :: (hdrF2 ++ [0x7D, 0x5E, 0x7D, 0x5D, 0xFF, 0xFE])) ++ [] := by decide

/-- Vectors S2 (the stop value through a pair) and S3. -/
theorem witness_StopFrameIsDecoded :
    unescape [0x00, 0x00, 0x7D, 0x70] = [0x00, 0x00, 80#8] ∧ endsPending false [0x00, 0x00, 0x7D, 0x70] = false ∧
    unescape [0x00, 0x00, 0x50] = [0x00, 0x00, 80#8] ∧ endsPending false [0x00, 0x00, 0x50] = false ∧
    (State.reset.setPending (traceRxs (0x7E#8 :: ([0x00, 0x00, 0x50] ++ [0x7D, 0x7E])))).env.pending =
      traceRxs (0x7E#8 :: ([0x00, 0x00, 0x50] ++ [0x7D, 0x7E])) ++ [] := by decide

theorem witness_EscapeOutputIsFramable :
    (escape [0x7E])[0]? = some (0x7D#8) ∧ (escape [0x01, 0x7D])[1]? = some (0x7D#8) := by decide

theorem witness_EscapeRoundTrip : escape (unescape [0x7D, 0x5E]) = [0x7D, 0x5E] := by decide

theorem witness_SamplesPairThePayload : 0 < ([0x01, 0x02, 0x03] : List Byte).length / 2 := by decide

theorem witness_ChannelAndLengthRanges :
    (([0, 0, 0, 3] : List Byte).getD 3 0).toNat < 4 ∧ 4 ≤ (([0, 0, 0, 4] : List Byte).getD 3 0).toNat ∧
    (-32768 : Int) ≤ -32768 ∧ (32767 : Int) ≤ 32767 := by decide

theorem witness_ResultRecordRoundTrip : (plainRecord .frame 127).n ≤ 127 := by decide

/-- A response descriptor of one unsigned byte. -/
def oneByte : List Slot := [{ signed := false, size := .one }]

/-- A short read, a wrong checksum, a wrong declared length (vector V8) and a good response (vector V7), of the least length. -/
theorem witness_ResponseChecksInOrder :
    ([0x00, 0x3D, 0x12, 0x01] : List Byte).length < expectedLen oneByte ∧
    expectedLen oneByte = ([0x00, 0x3D, 0x12, 0x01, 0x2B] : List Byte).length ∧
    cksum16 (([0x00, 0x3D, 0x12, 0x01, 0x2B] : List Byte).drop 2) ≠ fromBe16 0x00 0x3D ∧
    cksum16 (([0x00, 0x3E, 0x12, 0x02, 0x2A] : List Byte).drop 2) = fromBe16 0x00 0x3E ∧
    (0x02#8).toNat ≠ expectedLen oneByte - 4 ∧
    cksum16 (([0x00, 0x3D, 0x12, 0x01, 0x2A] : List Byte).drop 2) = fromBe16 0x00 0x3D ∧
    (0x01#8).toNat = expectedLen oneByte - 4 := by decide

theorem witness_WellBuiltResponseDecodes :
    ([0x2A] : List Byte).length = descSize oneByte ∧ ([0x2A] : List Byte).length ≤ 255 ∧
    ([] : List Byte).length = descSize [] := by decide

/-- Every clause on values at the ends of their ranges, in slots of each size and both signs. -/
theorem witness_WellBuiltResponseDecodes_values :
    (∀ f ∈ [(({ signed := true, size := .one } : Slot), (-128 : Int)), ({ signed := true, size := .two }, -1),
      ({ signed := true, size := .four }, -2147483648), ({ signed := false, size := .one }, 255),
      ({ signed := false, size := .two }, 65535), ({ signed := false, size := .four }, 4294967295)],
      slotHolds f.1 f.2) ∧
    descSize [({ signed := true, size := .four } : Slot), { signed := false, size := .two }] ≤ 255 := by decide

/-- R154: most significant byte first, and two's complement for a signed slot. -/
theorem test_decodeFields :
    decodeFields [{ signed := false, size := .two }, { signed := true, size := .one }, { signed := true, size := .four }]
      [0x01, 0x02, 0xFF, 0xFF, 0xFF, 0xFF, 0x9C] = [258, -1, -100] := by decide

end Sys2Proof.Tests
end

section
/-! SUPPORT. Proofs of the statements about the block as a whole (00_scope.md): which presented event a step runs, and that an
operation touches its own unit and that unit's queues alone. -/

namespace Sys2Proof.Machine

/-! ### The event a step runs -/

section PresentedEvent

variable {s : State} {p p' : Ports} {rest : List Ports} {e : PortEvent}

/-- What is left of a presentation stays in front of the others while it still carries an event. -/
theorem putBack_of_ne_idle (h : p ≠ idlePorts) (rest : List Ports) : putBack p rest = p :: rest := if_neg h

/-- A step runs the first event of the first presentation and puts the rest of that presentation back (R12, R92). -/
theorem step_takePort (hs : s.env.pending = p :: rest) (hp : takePort p = some (e, p')) :
    step s = exec (decode s.fd.state e) (s.setPending (putBack p' rest)) := by
  simp [step, fetch_cons hs, hp]

/-- A presentation with `rst` is taken whole, and the step runs RESET (R93). -/
theorem step_rst (hs : s.env.pending = p :: rest) (hp : p.rst = true) :
    step s = exec .reset (s.setPending rest) := by
  rw [step_takePort hs (takePort_rst hp), putBack_idle]
  rfl

/-- With nothing presented the block waits (R277, log entry 2). -/
theorem step_nil (hs : s.env.pending = []) : step s = .next s := by
  rw [step, fetch_nil hs]

/-- RESET leaves every unit at its reset value and the environment as it is (R260, R262). -/
theorem exec_reset (s : State) : exec .reset s = .next { State.reset with env := s.env } := rfl

end PresentedEvent

/-- Settles O7: one lemma for each way a presentation can stand first. -/
theorem stepRunsThePresentedEvent : Obligations.StepRunsThePresentedEvent := by
  refine ⟨fun s e rest hs => step_portsOf hs, fun s p p' e rest hs hp hne => ?several,
    fun s p rest hs hp => ⟨step_rst hs hp, ?reset⟩, fun s hs => step_nil hs⟩
  case several =>
    rw [step_takePort hs hp, putBack_of_ne_idle hne]
    rfl
  case reset =>
    rw [step_rst hs hp, exec_reset]
    rfl

/-! ### What an operation leaves unchanged -/

/-- From `s` to `t` nothing changed but the state of unit `u` and the queues that `u` appends to (R4, R73). For `.all`, the
unit of RESET, that is every unit and no queue (R262). -/
def ChangesOnly : BlockUnit → State → State → Prop
  | .cks, s, t => t = { s with cks := t.cks }
  | .ver, s, t => t = { s with ver := t.ver, env := { s.env with verq := t.env.verq } }
  | .asm, s, t => t = { s with
      asm := t.asm, env := { s.env with txq := t.env.txq, asmrq := t.env.asmrq, held := t.env.held } }
  | .fd, s, t => t = { s with
      fd := t.fd, env := { s.env with dataq := t.env.dataq, chanq := t.env.chanq, resq := t.env.resq } }
  | .all, s, t => t.env = s.env

section Frame

variable {s t : State} {v b : Byte}

/-- `push_hdr` changes FD alone, whichever of its outcomes it has (R181). -/
theorem pushHdr_changesOnly_fd (h : pushHdr v s = .next t) : ChangesOnly .fd s t := by
  obtain ⟨-, ⟨-, rfl⟩ | ⟨-, -, -, -, rfl⟩ | ⟨-, -, -, rfl⟩ | ⟨-, -, rfl⟩⟩ := pushHdr_next h
  all_goals rfl

/-- `push_pay` changes FD alone, whichever of its outcomes it has (R182). -/
theorem pushPay_changesOnly_fd (h : pushPay v s = .next t) : ChangesOnly .fd s t := by
  obtain ⟨-, -, ⟨-, rfl⟩ | ⟨-, rfl⟩⟩ := pushPay_next h
  all_goals rfl

/-- ASM.PUSH takes the byte or holds the event (R131, R135). -/
theorem execAsmPush_changesOnly_asm (h : execAsmPush b s = .next t) : ChangesOnly .asm s t := by
  unfold execAsmPush at h
  split at h
  all_goals cases h; rfl

/-- ASM.PUSHL reports an overflow, reports a built packet, or holds the event (R132, R135). -/
theorem execAsmPushL_changesOnly_asm (h : execAsmPushL b s = .next t) : ChangesOnly .asm s t := by
  unfold execAsmPushL at h
  split at h
  · dsimp only at h
    split at h
    all_goals cases h; rfl
  · cases h; rfl

/-- ASM.POP holds the event or emits a packet byte (R134, R135). -/
theorem execAsmPop_changesOnly_asm (h : execAsmPop s = .next t) : ChangesOnly .asm s t := by
  unfold execAsmPop at h
  split at h
  · cases h; rfl
  · split at h
    · cases h; rfl
    · cases h

/-- An operation that answers changes its own unit and that unit's queues alone (R4, R73). -/
theorem exec_changesOnly {i : Instr} (h : exec i s = .next t) : ChangesOnly (unitOf i) s t := by
  cases i with
  | fdHdrLit b | fdHdrEscAny b => exact pushHdr_changesOnly_fd h
  | fdPayLit b | fdPayEscAny b => exact pushPay_changesOnly_fd h
  | asmPush b => exact execAsmPush_changesOnly_asm h
  | asmPushL b => exact execAsmPushL_changesOnly_asm h
  | asmPop => exact execAsmPop_changesOnly_asm h
  | fdHuntNone | fdHuntSof | fdHuntStray b | fdHdrNone | fdHdrEsc | fdHdrEscNone | fdStop0None | fdStop0Any b
  | fdStop1None | fdStop1Any b | fdPayNone | fdPayEsc | fdPayEscNone | fdAbort
  | verPush b | verPushL b | cksClear | cksAdd b | reset => cases h; rfl

end Frame

/-- Settles O43: the frame of the operation's unit, read off field by field. -/
theorem unitsArePrivate : Obligations.UnitsArePrivate := by
  intro i s t h
  have hc := exec_changesOnly h
  cases hu : unitOf i
  all_goals
    rw [hu] at hc
    simp only [ChangesOnly] at hc
    rw [hc]
    simp

end Sys2Proof.Machine
end

section
/-! SUPPORT. Proofs of the statements about the state (10_state.md): the invariants of FD, ASM, VER and the queues that every
step keeps, the reset values, and that the queues are only appended to. -/

namespace Sys2Proof.Machine

/-! ### What every step keeps -/

section EveryStep

variable {i : Instr} {s t : State}

/-- A poll without a byte selects the state's own NONE operation. -/
theorem decodeNone_selectedIn (st : FdState) : (decodeNone st).selectedIn st = true := by
  cases st <;> rfl

/-- A received byte selects an operation of the state; in HUNT, HDR and PAY the reserved value has its own. -/
theorem decodeByte_selectedIn (st : FdState) (b : Byte) : (decodeByte st b).selectedIn st = true := by
  cases st with
  | hunt | hdr | pay => simp only [decodeByte]; split <;> rfl
  | hdrEsc | stop0 | stop1 | payEsc => rfl

/-- The decoder selects an operation only in the FD states in which the map of R92 has it. -/
theorem decode_selectedIn (st : FdState) (e : PortEvent) : (decode st e).selectedIn st = true := by
  cases e with
  | fdEv w =>
    simp only [decode, decodeFd]
    split_ifs
    · rfl
    · exact decodeByte_selectedIn st (fdByte w)
    · exact decodeNone_selectedIn st
  | asmIn w => simp only [decode, decodeAsmIn]; split <;> rfl
  | verIn w => simp only [decode, decodeVerIn]; split <;> rfl
  | cksIn w => simp only [decode, decodeCksIn]; split <;> rfl
  | asmOut | rst => rfl

/-- What taking presentations keeps and what every selected operation keeps, every step keeps (R12). -/
theorem step_keeps {P : State → Prop} (hpend : ∀ s ps, P s → P (s.setPending ps))
    (hexec : ∀ i s t, i.selectedIn s.fd.state = true → P s → exec i s = .next t → P t)
    (hs : P s) (h : step s = .next t) : P t := by
  obtain ⟨ps, rfl⟩ | ⟨e, ps, -, hx⟩ := step_next h
  · exact hpend s ps hs
  · exact hexec _ (s.setPending ps) t (decode_selectedIn s.fd.state e) (hpend s ps hs) hx

/-- An operation of another unit leaves FD as it is. -/
theorem exec_fd_eq (h : exec i s = .next t) (ha : unitOf i ≠ .all) (hu : unitOf i ≠ .fd) : t.fd = s.fd := by
  obtain ⟨-, -, -, -, hfd, -⟩ := unitsArePrivate i s t h
  exact hfd ha hu

/-- An operation of another unit leaves ASM as it is. -/
theorem exec_asm_eq (h : exec i s = .next t) (ha : unitOf i ≠ .all) (hu : unitOf i ≠ .asm) : t.asm = s.asm := by
  obtain ⟨-, -, -, hasm, -⟩ := unitsArePrivate i s t h
  exact hasm ha hu

/-- An operation of another unit leaves VER as it is. -/
theorem exec_ver_eq (h : exec i s = .next t) (ha : unitOf i ≠ .all) (hu : unitOf i ≠ .ver) : t.ver = s.ver := by
  obtain ⟨-, -, hver, -⟩ := unitsArePrivate i s t h
  exact hver ha hu

end EveryStep

/-! ### FD's invariant -/

section FdInvariant

variable {i : Instr} {s t : State} {f : Fd} {v : Byte} {hdr : List Byte}

theorem fdInv_reset : FdInv Fd.reset := by decide

/-- The row of R40 for HDR and HDR_ESC. -/
theorem fdInv_hdr_iff (hst : f.state = .hdr ∨ f.state = .hdrEsc) : FdInv f ↔
    f.hdr.length ≤ 7 ∧ f.pay.length = 0 ∧ (3 ≤ f.hdr.length → hdrByte f.hdr 2 ≠ Config.stopValue) := by
  obtain hst | hst := hst <;> simp [FdInv, hst]

/-- The row of R40 for STOP0 and STOP1. -/
theorem fdInv_stop_iff (hst : f.state = .stop0 ∨ f.state = .stop1) : FdInv f ↔
    f.hdr.length = 3 ∧ f.pay.length = 0 ∧ hdrByte f.hdr 2 = Config.stopValue := by
  obtain hst | hst := hst <;> simp [FdInv, hst]

/-- The row of R40 for PAY and PAY_ESC; that the length byte is at least 5 follows from the payload's length. -/
theorem fdInv_pay_iff (hst : f.state = .pay ∨ f.state = .payEsc) : FdInv f ↔
    f.hdr.length = 8 ∧ f.pay.length < ptarget f.hdr ∧ hdrByte f.hdr 2 ≠ Config.stopValue := by
  have h5 : f.pay.length < ptarget f.hdr → 5 ≤ (hdrByte f.hdr 3).toNat := by rw [ptarget_eq]; omega
  obtain hst | hst := hst <;> simp +contextual [FdInv, hst, h5]

/-- A header without the stop value that does not become a stop frame's header with `v` has no stop value afterwards. -/
theorem hdrByte_two_ne_stop (hold : 3 ≤ hdr.length → hdrByte hdr 2 ≠ Config.stopValue)
    (hstop : isStop (hdr ++ [v]) = false) (hlen : 3 ≤ (hdr ++ [v]).length) : hdrByte (hdr ++ [v]) 2 ≠ Config.stopValue := by
  obtain h3 | h3 := hlen.eq_or_lt
  · intro hb
    exact Bool.eq_false_iff.1 hstop ((isStop_iff _).2 ⟨h3.symm, hb⟩)
  · have hin : 3 ≤ hdr.length := by rw [List.length_append, List.length_singleton] at h3; omega
    rw [hdrByte_append hin]
    exact hold hin

/-- Each outcome of `push_hdr` lands in the row of R40 for its new state. -/
theorem pushHdr_keeps_fdInv (hi : FdInv s.fd) (hst : s.fd.state = .hdr ∨ s.fd.state = .hdrEsc)
    (h : pushHdr v s = .next t) : FdInv t.fd := by
  obtain ⟨-, hpay, hold⟩ := (fdInv_hdr_iff hst).1 hi
  obtain ⟨hle, ⟨hs, rfl⟩ | ⟨-, -, -, -, rfl⟩ | ⟨hs, h7, ht, rfl⟩ | ⟨hs, h7, rfl⟩⟩ := pushHdr_next h
  · obtain ⟨h3, hstop⟩ := (isStop_iff _).1 hs
    exact (fdInv_stop_iff (.inl rfl)).2 ⟨h3, hpay, hstop⟩
  · exact fdInv_reset
  · exact (fdInv_pay_iff (.inl rfl)).2
      ⟨by simp [storeHdr, h7], hpay.trans_lt (Nat.pos_of_ne_zero ht), hdrByte_two_ne_stop hold hs (by simp [h7])⟩
  · have hle' : (s.fd.hdr ++ [v]).length ≤ 7 := by rw [List.length_append, List.length_singleton]; omega
    exact (fdInv_hdr_iff (.inl rfl)).2 ⟨hle', hpay, hdrByte_two_ne_stop hold hs⟩

/-- Each outcome of `push_pay` lands in the row of R40 for its new state. -/
theorem pushPay_keeps_fdInv (hi : FdInv s.fd) (hst : s.fd.state = .pay ∨ s.fd.state = .payEsc)
    (h : pushPay v s = .next t) : FdInv t.fd := by
  obtain ⟨h8, hlt, hne⟩ := (fdInv_pay_iff hst).1 hi
  obtain ⟨-, -, ⟨-, rfl⟩ | ⟨hgo, rfl⟩⟩ := pushPay_next h
  · exact fdInv_reset
  · have hlt' : (s.fd.pay ++ [v]).length < ptarget s.fd.hdr := by rw [List.length_append, List.length_singleton]; omega
    exact (fdInv_pay_iff (.inl rfl)).2 ⟨h8, hlt', hne⟩

/-- An operation that is run in a state that selects it keeps FD's invariant (R40). -/
theorem exec_keeps_fdInv (hsel : i.selectedIn s.fd.state = true) (hi : FdInv s.fd) (h : exec i s = .next t) :
    FdInv t.fd := by
  cases i with
  | fdHdrLit b => exact pushHdr_keeps_fdInv hi (.inl (eq_of_beq hsel)) h
  | fdHdrEscAny b => exact pushHdr_keeps_fdInv hi (.inr (eq_of_beq hsel)) h
  | fdPayLit b => exact pushPay_keeps_fdInv hi (.inl (eq_of_beq hsel)) h
  | fdPayEscAny b => exact pushPay_keeps_fdInv hi (.inr (eq_of_beq hsel)) h
  | fdHuntSof =>
    obtain ⟨hhunt, -⟩ := hi
    obtain ⟨hhdr, hpay⟩ := hhunt (eq_of_beq hsel)
    cases h
    exact (fdInv_hdr_iff (.inl rfl)).2 ⟨hhdr.trans_le (Nat.zero_le 7), hpay, by simp [hhdr]⟩
  | fdHdrEsc => cases h; exact (fdInv_hdr_iff (.inr rfl)).2 ((fdInv_hdr_iff (.inl (eq_of_beq hsel))).1 hi)
  | fdStop0Any b => cases h; exact (fdInv_stop_iff (.inr rfl)).2 ((fdInv_stop_iff (.inl (eq_of_beq hsel))).1 hi)
  | fdPayEsc => cases h; exact (fdInv_pay_iff (.inr rfl)).2 ((fdInv_pay_iff (.inl (eq_of_beq hsel))).1 hi)
  | fdStop1Any b | fdAbort | reset => cases h; exact fdInv_reset
  | fdHuntNone | fdHuntStray b | fdHdrNone | fdHdrEscNone | fdStop0None | fdStop1None | fdPayNone | fdPayEscNone =>
    cases h
    exact hi
  | asmPush b | asmPushL b | asmPop | verPush b | verPushL b | cksClear | cksAdd b =>
    rw [exec_fd_eq h nofun nofun]
    exact hi

end FdInvariant

/-- Settles O34: every operation lands in the row of R40's table for the state it leaves FD in. -/
theorem stepKeepsFdInvariant : Obligations.StepKeepsFdInvariant :=
  ⟨fdInv_reset, fun _ _ hi h => step_keeps (P := fun s => FdInv s.fd) (fun _ _ hi => hi)
    (fun _ _ _ hsel hi hx => exec_keeps_fdInv hsel hi hx) hi h⟩

/-! ### ASM's invariant -/

section AsmInvariant

variable {i : Instr} {s t : State} {a : Asm} {b : Byte}

theorem asmInv_reset : AsmInv Asm.reset := by decide

theorem asmInv_load_iff (hp : a.phase = .load) : AsmInv a ↔
    a.buf.length ≤ 257 ∧ a.sum = cksum16 a.buf ∧ a.idx = 0 ∧ (a.ovf = true → a.buf.length = 257) := by
  simp [AsmInv, hp]

theorem asmInv_emit_iff (hp : a.phase = .emit) : AsmInv a ↔
    a.buf.length ≤ 257 ∧ a.sum = cksum16 a.buf ∧ 1 ≤ a.buf.length ∧ a.idx ≤ a.buf.length + 1 ∧ a.ovf = false := by
  simp +contextual [AsmInv, hp]

@[simp] theorem asmTake_phase (a : Asm) (b : Byte) : (asmTake a b).phase = a.phase := by
  obtain ⟨-, h⟩ | ⟨-, h⟩ := asmTake_cases a b <;> rw [h]

/-- After a byte is taken, or refused by a full buffer, the buffer is not empty (R131). -/
theorem asmTake_buf_pos (a : Asm) (b : Byte) : 1 ≤ (asmTake a b).buf.length := by
  obtain ⟨h257, h⟩ | ⟨-, h⟩ := asmTake_cases a b <;> rw [h]
  · exact h257 ▸ Nat.le_add_left 1 256
  · simp

/-- Taking a byte in LOAD keeps ASM's invariant: the byte is added to the sum as it enters the buffer (R131). -/
theorem asmTake_keeps_asmInv (hp : a.phase = .load) (hi : AsmInv a) (b : Byte) : AsmInv (asmTake a b) := by
  obtain ⟨hle, hsum, hidx, hovf⟩ := (asmInv_load_iff hp).1 hi
  rw [asmInv_load_iff (by rw [asmTake_phase, hp])]
  obtain ⟨h257, h⟩ | ⟨hne, h⟩ := asmTake_cases a b <;> rw [h]
  · exact ⟨hle, hsum, hidx, fun _ => h257⟩
  · have hle' : (a.buf ++ [b]).length ≤ 257 := by rw [List.length_append, List.length_singleton]; omega
    exact ⟨hle', by rw [cksum16_concat, hsum], hidx, fun ho => absurd (hovf ho) hne⟩

/-- Popping a packet byte keeps ASM's invariant (R134). -/
theorem asmAdvance_keeps_asmInv (hp : a.phase = .emit) (hi : AsmInv a) : AsmInv (asmAdvance a) := by
  obtain ⟨hle, hsum, hpos, hidx, hovf⟩ := (asmInv_emit_iff hp).1 hi
  obtain ⟨-, h⟩ | ⟨hne, h⟩ := asmAdvance_cases a <;> rw [h]
  · exact (asmInv_load_iff rfl).2 ⟨Nat.zero_le _, rfl, rfl, by simp [hovf]⟩
  · have hidx' : a.idx + 1 ≤ a.buf.length + 1 := by omega
    exact (asmInv_emit_iff (a := { a with idx := a.idx + 1 }) hp).2 ⟨hle, hsum, hpos, hidx', hovf⟩

/-- ASM.PUSH takes the byte in LOAD and leaves ASM as it is in EMIT (R131, R135). -/
theorem execAsmPush_asm (h : execAsmPush b s = .next t) :
    (s.asm.phase = .load ∧ t.asm = asmTake s.asm b) ∨ (s.asm.phase = .emit ∧ t.asm = s.asm) := by
  unfold execAsmPush at h
  split at h
  case h_1 hp => cases h; exact .inl ⟨hp, rfl⟩
  case h_2 hp => cases h; exact .inr ⟨hp, rfl⟩

/-- ASM.PUSHL in LOAD drops a command that has overflowed or begins to emit the packet; in EMIT it leaves ASM as it is
(R132, R135). -/
theorem execAsmPushL_asm (h : execAsmPushL b s = .next t) :
    (s.asm.phase = .load ∧ t.asm = { asmTake s.asm b with buf := [], sum := 0, ovf := false }) ∨
    (s.asm.phase = .load ∧ (asmTake s.asm b).ovf = false ∧ t.asm = { asmTake s.asm b with phase := .emit, idx := 0 }) ∨
    (s.asm.phase = .emit ∧ t.asm = s.asm) := by
  unfold execAsmPushL at h
  split at h
  case h_1 hp =>
    dsimp only at h
    split at h
    case isTrue => cases h; exact .inl ⟨hp, rfl⟩
    case isFalse hovf => cases h; exact .inr (.inl ⟨hp, Bool.eq_false_iff.2 hovf, rfl⟩)
  case h_2 hp => cases h; exact .inr (.inr ⟨hp, rfl⟩)

/-- ASM.POP leaves ASM as it is in LOAD and advances it in EMIT (R134, R135). -/
theorem execAsmPop_asm (h : execAsmPop s = .next t) :
    (s.asm.phase = .load ∧ t.asm = s.asm) ∨ (s.asm.phase = .emit ∧ t.asm = asmAdvance s.asm) := by
  unfold execAsmPop at h
  split at h
  case h_1 hp => cases h; exact .inl ⟨hp, rfl⟩
  case h_2 hp =>
    split at h
    · cases h; exact .inr ⟨hp, rfl⟩
    · cases h

/-- The last byte of a command keeps ASM's invariant: an overflow empties the buffer, a packet starts at its first byte (R132). -/
theorem execAsmPushL_keeps_asmInv (hi : AsmInv s.asm) (h : execAsmPushL b s = .next t) : AsmInv t.asm := by
  obtain ⟨hp, ha⟩ | ⟨hp, hovf, ha⟩ | ⟨-, ha⟩ := execAsmPushL_asm h <;> rw [ha]
  case inl =>
    have hp' : (asmTake s.asm b).phase = .load := by rw [asmTake_phase, hp]
    obtain ⟨-, -, hidx, -⟩ := (asmInv_load_iff hp').1 (asmTake_keeps_asmInv hp hi b)
    exact (asmInv_load_iff (a := { asmTake s.asm b with buf := [], sum := 0, ovf := false }) hp').2
      ⟨Nat.zero_le _, rfl, hidx, nofun⟩
  case inr.inl =>
    obtain ⟨hle, hsum, -⟩ := asmTake_keeps_asmInv hp hi b
    exact (asmInv_emit_iff rfl).2 ⟨hle, hsum, asmTake_buf_pos _ _, Nat.zero_le _, hovf⟩
  case inr.inr => exact hi

/-- Every operation keeps ASM's invariant (R28 to R32). -/
theorem exec_keeps_asmInv (hi : AsmInv s.asm) (h : exec i s = .next t) : AsmInv t.asm := by
  cases i with
  | asmPush b =>
    obtain ⟨hp, ha⟩ | ⟨-, ha⟩ := execAsmPush_asm h <;> rw [ha]
    · exact asmTake_keeps_asmInv hp hi b
    · exact hi
  | asmPushL b => exact execAsmPushL_keeps_asmInv hi h
  | asmPop =>
    obtain ⟨-, ha⟩ | ⟨hp, ha⟩ := execAsmPop_asm h <;> rw [ha]
    · exact hi
    · exact asmAdvance_keeps_asmInv hp hi
  | reset => cases h; exact asmInv_reset
  | fdHuntNone | fdHuntSof | fdHuntStray b | fdHdrNone | fdHdrEsc | fdHdrLit b | fdHdrEscNone | fdHdrEscAny b | fdStop0None
  | fdStop0Any b | fdStop1None | fdStop1Any b | fdPayNone | fdPayEsc | fdPayLit b | fdPayEscNone | fdPayEscAny b | fdAbort
  | verPush b | verPushL b | cksClear | cksAdd b =>
    rw [exec_asm_eq h nofun nofun]
    exact hi

end AsmInvariant

/-- Settles O35: no operation but those of ASM and RESET touches ASM, and each of these keeps its invariant. -/
theorem stepKeepsAsmInvariant : Obligations.StepKeepsAsmInvariant :=
  fun _ _ hi h => step_keeps (P := fun s => AsmInv s.asm) (fun _ _ hi => hi)
    (fun _ _ _ _ hi hx => exec_keeps_asmInv hi hx) hi h

/-! ### VER's invariant -/

section VerInvariant

variable {i : Instr} {s t : State}

theorem verInv_reset : VerInv Ver.reset := by decide

/-- Taking a byte keeps VER's invariant: a checksum byte goes to its own half of `ver.exp` and is not summed (R117). -/
theorem verTake_keeps_verInv {w : Ver} (hi : VerInv w) (b : Byte) : VerInv (verTake w b) := by
  obtain ⟨hzero, -⟩ := hi
  obtain ⟨hc, h⟩ | ⟨-, h⟩ | ⟨hc, h⟩ := verTake_cases w b <;> rw [h]
  · obtain ⟨hexp, hsum⟩ := hzero hc
    exact ⟨nofun, fun _ => ⟨by rw [loByte_fromBe16, hexp]; rfl, hsum⟩⟩
  · exact ⟨nofun, nofun⟩
  · simp [VerInv, hc]

/-- Every operation keeps VER's invariant (R23 to R25). -/
theorem exec_keeps_verInv (hi : VerInv s.ver) (h : exec i s = .next t) : VerInv t.ver := by
  cases i with
  | verPush b => cases h; exact verTake_keeps_verInv hi b
  | verPushL b | reset => cases h; exact verInv_reset
  | fdHuntNone | fdHuntSof | fdHuntStray b | fdHdrNone | fdHdrEsc | fdHdrLit b | fdHdrEscNone | fdHdrEscAny b | fdStop0None
  | fdStop0Any b | fdStop1None | fdStop1Any b | fdPayNone | fdPayEsc | fdPayLit b | fdPayEscNone | fdPayEscAny b | fdAbort
  | asmPush b | asmPushL b | asmPop | cksClear | cksAdd b =>
    rw [exec_ver_eq h nofun nofun]
    exact hi

end VerInvariant

/-- Settles O36: of the operations that touch VER, VER.PUSHL and RESET leave it at reset and VER.PUSH takes a byte. -/
theorem stepKeepsVerInvariant : Obligations.StepKeepsVerInvariant :=
  fun _ _ hi h => step_keeps (P := fun s => VerInv s.ver) (fun _ _ hi => hi)
    (fun _ _ _ _ hi hx => exec_keeps_verInv hi hx) hi h

/-! ### Queue accounting -/

/-- A record that can occur, with the DATAQ entries it counts and the CHANQ entry that stands for it (R43, R44, R89). -/
def Accounts (w : BitVec 12) (ds : List (BitVec 16)) (cs : List (BitVec 9)) : Prop :=
  LegalRecord w ∧ ds.length = (resOfWord w).n ∧ cs.length = [w].countP carriesChannel ∧
  ∀ c ∈ cs, -1 ≤ c.toInt ∧ c.toInt ≤ 254

/-- FD's queues stay, or one record is appended together with the entries it accounts for. -/
def StreamStep (e e' : Env) : Prop :=
  (e'.dataq = e.dataq ∧ e'.chanq = e.chanq ∧ e'.resq = e.resq) ∨
  ∃ w ds cs, Accounts w ds cs ∧ e'.dataq = e.dataq ++ ds ∧ e'.chanq = e.chanq ++ cs ∧ e'.resq = e.resq ++ [w]

section QueueAccounting

variable {i : Instr} {s t : State} {v : Byte} {e e' : Env}

/-- Queues that fit together still do after a record with its entries. -/
theorem streamStep_keeps_queueInv (hi : QueueInv e) (h : StreamStep e e') : QueueInv e' := by
  obtain ⟨hlegal, hdata, hchan, hrange⟩ := hi
  obtain ⟨hd, hc, hr⟩ | ⟨w, ds, cs, ⟨hw, hds, hcs, hcr⟩, hd, hc, hr⟩ := h <;> rw [QueueInv, hd, hc, hr]
  · exact ⟨hlegal, hdata, hchan, hrange⟩
  · refine ⟨List.forall_mem_append.2 ⟨hlegal, List.forall_mem_singleton.2 hw⟩, ?_, ?_,
      List.forall_mem_append.2 ⟨hrange, hcr⟩⟩
    · simp [hdata, hds]
    · rw [List.length_append, List.countP_append, hchan, hcs]

/-- The number of a record word: the fields do not overlap (R89). -/
theorem resWord_toNat {r : ResRecord} (hn : r.n ≤ 127) : (resWord r).toNat =
    resCodeBits r.code * 1024 + r.cksOk.toNat * 512 + r.oddLen.toNat * 256 + r.lenUf.toNat * 128 + r.n := by
  have hcode : resCodeBits r.code ≤ 3 := by cases r.code <;> decide
  have hcks := r.cksOk.toNat_le
  have hodd := r.oddLen.toNat_le
  have huf := r.lenUf.toNat_le
  rw [resWord, BitVec.toNat_ofNat]
  omega

theorem resCodeOf_resCodeBits (c : ResCode) : resCodeOf (BitVec.ofNat 2 (resCodeBits c)) = c := by
  cases c <;> rfl

/-- A bit of a record word that is a flag's reads as that flag. -/
theorem getLsbD_eq_of_toNat {w : BitVec 12} {j : Nat} {f : Bool} (h : w.toNat / 2 ^ j % 2 = f.toNat) :
    w.getLsbD j = f := by
  rw [BitVec.getLsbD, Nat.testBit_eq_decide_div_mod_eq, h]
  cases f <;> rfl

/-- Every field of a record reads back from its word (R89). -/
theorem resOfWord_resWord {r : ResRecord} (hn : r.n ≤ 127) : resOfWord (resWord r) = r := by
  have hw := resWord_toNat hn
  have hcks := r.cksOk.toNat_le
  have hodd := r.oddLen.toNat_le
  have huf := r.lenUf.toNat_le
  have hcode : (resWord r).extractLsb' 10 2 = BitVec.ofNat 2 (resCodeBits r.code) := by
    apply BitVec.eq_of_toNat_eq
    rw [BitVec.extractLsb'_toNat, BitVec.toNat_ofNat, Nat.shiftRight_eq_div_pow, hw]
    omega
  have hcksBit : (resWord r).getLsbD 9 = r.cksOk := getLsbD_eq_of_toNat (by omega)
  have hoddBit : (resWord r).getLsbD 8 = r.oddLen := getLsbD_eq_of_toNat (by omega)
  have hufBit : (resWord r).getLsbD 7 = r.lenUf := getLsbD_eq_of_toNat (by omega)
  have hcount : ((resWord r).extractLsb' 0 7).toNat = r.n := by
    rw [BitVec.extractLsb'_toNat, Nat.shiftRight_zero]
    omega
  rw [resOfWord, hcode, resCodeOf_resCodeBits, hcksBit, hoddBit, hufBit, hcount]

/-- A payload gives one sample for every two bytes; an unpaired last byte gives none (R170). -/
theorem samplesOf_length : ∀ pay : List Byte, (samplesOf pay).length = pay.length / 2
  | [] => rfl
  | [b] => by rw [samplesOf_single, List.length_nil, List.length_singleton]
  | _ :: _ :: rest => by
    rw [samplesOf_pair, List.length_cons, samplesOf_length rest, List.length_cons, List.length_cons]
    omega

/-- A channel id is not wrapped by the 9 bits of its CHANQ entry (R90, R171). -/
theorem chanWord_chanId_toInt (b : Byte) : (chanWord (chanId b)).toInt = (b.toNat : Int) - 1 := by
  have hb := b.isLt
  have hc : chanId b = (b.toNat : Int) - 1 := rfl
  rw [chanWord, BitVec.toInt_ofInt, hc]
  exact Int.bmod_eq_of_le (by omega) (by omega)

theorem chanWord_chanId_range (b : Byte) : ∀ c ∈ [chanWord (chanId b)], -1 ≤ c.toInt ∧ c.toInt ≤ 254 := by
  have hb := b.isLt
  rw [List.forall_mem_singleton, chanWord_chanId_toInt]
  omega

/-- An idle record stands alone (R187, R190). -/
theorem accounts_idle : Accounts 0x000 [] [] := ⟨.inl rfl, rfl, rfl, nofun⟩

/-- A stray record comes with the stray byte (R186). -/
theorem accounts_stray (d : BitVec 16) : Accounts 0x801 [d] [] := ⟨.inr (.inl rfl), rfl, rfl, nofun⟩

/-- A stop record comes with the channel id of the stop frame (R195). -/
theorem accounts_stop (b : Byte) : Accounts 0xC00 [] [chanWord (chanId b)] :=
  ⟨.inr (.inr (.inl rfl)), rfl, rfl, chanWord_chanId_range b⟩

/-- No frame has more than 125 samples (R8). -/
theorem frameRecord_n_le (hdr pay : List Byte) : (frameRecord hdr pay).n ≤ 125 :=
  Nat.div_le_div_right (c := 2) (ptarget_le hdr)

/-- The record of a frame can occur: a length byte below 4 asks for no payload, which is no odd one (R172, R183). -/
theorem frameRecord_legal (hdr pay : List Byte) : LegalRecord (resWord (frameRecord hdr pay)) := by
  have hn := frameRecord_n_le hdr pay
  refine .inr (.inr (.inr ?_))
  rw [resOfWord_resWord (hn.trans (by decide))]
  refine ⟨rfl, hn, fun huf => ?_⟩
  have hlow : (hdrByte hdr 3).toNat < 4 := of_decide_eq_true huf
  have hzero : ptarget hdr = 0 := by rw [ptarget_eq]; omega
  simp [frameRecord, oddLenFlag, hzero]

/-- The record of a completed frame comes with its samples and its channel id (R183). -/
theorem accounts_frame {hdr pay : List Byte} (hp : pay.length = ptarget hdr) (b : Byte) :
    Accounts (resWord (frameRecord hdr pay)) ((samplesOf pay).map dataWord) [chanWord (chanId b)] := by
  have hn : (frameRecord hdr pay).n ≤ 127 := (frameRecord_n_le hdr pay).trans (by decide)
  refine ⟨frameRecord_legal hdr pay, ?_, ?_, chanWord_chanId_range b⟩
  · rw [resOfWord_resWord hn, List.length_map, samplesOf_length, hp]
    rfl
  · simp only [List.countP_singleton, carriesChannel, resOfWord_resWord hn]
    rfl

/-- The idle record is appended alone (R187, R190). -/
theorem addRes_idle_streamStep (s : State) : StreamStep s.env (s.addRes 0x000).env :=
  .inr ⟨_, [], [], accounts_idle, (List.append_nil _).symm, (List.append_nil _).symm, rfl⟩

/-- A completed frame appends its samples, its channel id and its record (R183). -/
theorem deliverFrame_streamStep (hp : s.fd.pay.length = ptarget s.fd.hdr) :
    StreamStep s.env (clearFrame (deliverFrame s)).env :=
  .inr ⟨_, _, _, accounts_frame hp (hdrByte s.fd.hdr 4), rfl, rfl, rfl⟩

/-- `push_hdr` touches the queues only where it completes a frame (R181). -/
theorem pushHdr_streamStep (h : pushHdr v s = .next t) : StreamStep s.env t.env := by
  obtain ⟨-, ⟨-, rfl⟩ | ⟨-, -, ht, hp, rfl⟩ | ⟨-, -, -, rfl⟩ | ⟨-, -, rfl⟩⟩ := pushHdr_next h
  · exact .inl ⟨rfl, rfl, rfl⟩
  · exact deliverFrame_streamStep (s := storeHdr v s) (hp.trans ht.symm)
  · exact .inl ⟨rfl, rfl, rfl⟩
  · exact .inl ⟨rfl, rfl, rfl⟩

/-- `push_pay` touches the queues only where it completes a frame (R182). -/
theorem pushPay_streamStep (h : pushPay v s = .next t) : StreamStep s.env t.env := by
  obtain ⟨-, -, ⟨hp, rfl⟩ | ⟨-, rfl⟩⟩ := pushPay_next h
  · have hfull : (s.fd.pay ++ [v]).length = ptarget s.fd.hdr := by rw [List.length_append, List.length_singleton, hp]
    exact deliverFrame_streamStep (s := storePay v s) hfull
  · exact .inl ⟨rfl, rfl, rfl⟩

/-- An operation leaves FD's queues alone or appends one record with what it accounts for (R43, R44). -/
theorem exec_streamStep (h : exec i s = .next t) : StreamStep s.env t.env := by
  cases i with
  | fdHuntNone | fdHdrNone | fdHdrEscNone | fdStop0None | fdStop1None | fdPayNone | fdPayEscNone =>
    cases h
    exact addRes_idle_streamStep s
  | fdHuntStray b =>
    cases h
    exact .inr ⟨_, _, [], accounts_stray (strayWord b), rfl, (List.append_nil _).symm, rfl⟩
  | fdStop1Any b =>
    cases h
    exact .inr ⟨_, [], _, accounts_stop b, (List.append_nil _).symm, rfl, rfl⟩
  | fdHdrLit b | fdHdrEscAny b => exact pushHdr_streamStep h
  | fdPayLit b | fdPayEscAny b => exact pushPay_streamStep h
  | fdHuntSof | fdHdrEsc | fdStop0Any b | fdPayEsc | fdAbort => cases h; exact .inl ⟨rfl, rfl, rfl⟩
  | asmPush b | asmPushL b | asmPop | verPush b | verPushL b | cksClear | cksAdd b | reset =>
    obtain ⟨-, -, -, -, -, -, -, hq⟩ := unitsArePrivate _ s t h
    exact .inl (hq nofun)

end QueueAccounting

/-- Settles O37: every operation appends to FD's queues no entry, or one record with the entries it accounts for. -/
theorem stepKeepsQueueAccounting : Obligations.StepKeepsQueueAccounting :=
  fun _ _ hi h => step_keeps (P := fun s => QueueInv s.env) (fun _ _ hi => hi)
    (fun _ _ _ _ hi hx => streamStep_keeps_queueInv hi (exec_streamStep hx)) hi h

/-! ### The queues influence nothing -/

/-- Apply `f` to the next state of an answer. -/
def onNext (f : State → State) : Result → Result
  | .next s => .next (f s)
  | .fault r => .fault r
  | .refused r => .refused r

/-- `s` with the entries of `e` in front of its own in every queue. -/
def State.behind (s : State) (e : Env) : State := { s with env := appendEnv e s.env }

/-- `s` with its queues emptied. -/
def State.emptied (s : State) : State := { s with env := { Env.reset with pending := s.env.pending } }

section Behind

variable {s s' t : State} {e : Env} {f : State → State} {r : Result}

@[simp] theorem onNext_next (f : State → State) (s : State) : onNext f (.next s) = .next (f s) := rfl
@[simp] theorem onNext_fault (f : State → State) (r : Fault) : onNext f (.fault r) = .fault r := rfl

theorem onNext_eq_next_iff : onNext f r = .next t ↔ ∃ u, r = .next u ∧ f u = t := by
  cases r <;> simp [onNext]

theorem onNext_ite (f : State → State) (c : Prop) [Decidable c] (r r' : Result) :
    onNext f (if c then r else r') = if c then onNext f r else onNext f r' := apply_ite _ _ _ _

/-! Earlier queue entries change no unit, and every update passes by them. -/

@[simp] theorem State.behind_cks : (s.behind e).cks = s.cks := rfl
@[simp] theorem State.behind_ver : (s.behind e).ver = s.ver := rfl
@[simp] theorem State.behind_asm : (s.behind e).asm = s.asm := rfl
@[simp] theorem State.behind_fd : (s.behind e).fd = s.fd := rfl
@[simp] theorem State.behind_pending : (s.behind e).env.pending = s.env.pending := rfl

@[simp] theorem State.behind_setCks (c : Cks) : (s.behind e).setCks c = (s.setCks c).behind e := rfl
@[simp] theorem State.behind_setVer (v : Ver) : (s.behind e).setVer v = (s.setVer v).behind e := rfl
@[simp] theorem State.behind_setAsm (a : Asm) : (s.behind e).setAsm a = (s.setAsm a).behind e := rfl
@[simp] theorem State.behind_setFd (f : Fd) : (s.behind e).setFd f = (s.setFd f).behind e := rfl
@[simp] theorem State.behind_setPending (ps : List Ports) : (s.behind e).setPending ps = (s.setPending ps).behind e := rfl
@[simp] theorem State.behind_setFdState (st : FdState) : (s.behind e).setFdState st = (s.setFdState st).behind e := rfl
@[simp] theorem clearFrame_behind : clearFrame (s.behind e) = (clearFrame s).behind e := rfl
@[simp] theorem storeHdr_behind (v : Byte) : storeHdr v (s.behind e) = (storeHdr v s).behind e := rfl
@[simp] theorem storePay_behind (v : Byte) : storePay v (s.behind e) = (storePay v s).behind e := rfl

@[simp] theorem State.behind_hold (x : PortEvent) : (s.behind e).hold x = (s.hold x).behind e := by
  simp [State.hold, State.addHeld, State.behind, appendEnv]
@[simp] theorem State.behind_addData (ds : List (BitVec 16)) : (s.behind e).addData ds = (s.addData ds).behind e := by
  simp [State.addData, State.behind, appendEnv]
@[simp] theorem State.behind_addChan (c : BitVec 9) : (s.behind e).addChan c = (s.addChan c).behind e := by
  simp [State.addChan, State.behind, appendEnv]
@[simp] theorem State.behind_addRes (w : BitVec 12) : (s.behind e).addRes w = (s.addRes w).behind e := by
  simp [State.addRes, State.behind, appendEnv]
@[simp] theorem State.behind_addTx (w : BitVec 9) : (s.behind e).addTx w = (s.addTx w).behind e := by
  simp [State.addTx, State.behind, appendEnv]
@[simp] theorem State.behind_addAsmr (a : AsmStatus) : (s.behind e).addAsmr a = (s.addAsmr a).behind e := by
  simp [State.addAsmr, State.behind, appendEnv]
@[simp] theorem State.behind_addVerr (v : Verdict) : (s.behind e).addVerr v = (s.addVerr v).behind e := by
  simp [State.addVerr, State.behind, appendEnv]

@[simp] theorem deliverFrame_behind : deliverFrame (s.behind e) = (deliverFrame s).behind e := by
  simp [deliverFrame_eq]

@[simp] theorem completeFrame_behind : completeFrame (s.behind e) = onNext (·.behind e) (completeFrame s) := by
  simp [completeFrame, onNext_ite]

theorem pushHdr_behind (v : Byte) : pushHdr v (s.behind e) = onNext (·.behind e) (pushHdr v s) := by
  simp [pushHdr_eq, onNext_ite]

theorem pushPay_behind (v : Byte) : pushPay v (s.behind e) = onNext (·.behind e) (pushPay v s) := by
  simp [pushPay_eq, onNext_ite]

theorem execAsmPush_behind (b : Byte) : execAsmPush b (s.behind e) = onNext (·.behind e) (execAsmPush b s) := by
  cases hp : s.asm.phase <;> simp [execAsmPush, hp]

theorem execAsmPushL_behind (b : Byte) : execAsmPushL b (s.behind e) = onNext (·.behind e) (execAsmPushL b s) := by
  cases hp : s.asm.phase <;> simp [execAsmPushL, hp, onNext_ite]

theorem execAsmPop_behind : execAsmPop (s.behind e) = onNext (·.behind e) (execAsmPop s) := by
  cases hp : s.asm.phase with
  | load => simp [execAsmPop, hp]
  | emit => cases hb : packetByte s.asm <;> simp [execAsmPop, hp, hb]

/-- An operation does the same whatever stands in the queues before its own appends (R41). -/
theorem exec_behind (i : Instr) (s : State) (e : Env) : exec i (s.behind e) = onNext (·.behind e) (exec i s) := by
  cases i with
  | fdHdrLit b => exact pushHdr_behind b
  | fdHdrEscAny b => exact pushHdr_behind (unesc1 b)
  | fdPayLit b => exact pushPay_behind b
  | fdPayEscAny b => exact pushPay_behind (unesc1 b)
  | asmPush b => exact execAsmPush_behind b
  | asmPushL b => exact execAsmPushL_behind b
  | asmPop => exact execAsmPop_behind
  | fdHuntNone | fdHdrNone | fdHdrEscNone | fdStop0None | fdStop1None | fdPayNone | fdPayEscNone =>
    exact congrArg Host.Outcome.next (State.behind_addRes _)
  | fdHuntStray b => simp [exec, execFdHuntStray]
  | fdStop1Any b => simp [exec, execFdStop1Any]
  | verPushL b => simp [exec, execVerPushL]
  | fdHuntSof | fdHdrEsc | fdStop0Any b | fdPayEsc | fdAbort | verPush b | cksClear | cksAdd b | reset => rfl

theorem fetch_behind (s : State) (e : Env) : fetch (s.behind e) = ((fetch s).1, (fetch s).2.behind e) := by
  cases hp : s.env.pending with
  | nil => rw [fetch_nil hp, fetch_nil (s := s.behind e) hp]
  | cons p rest =>
    rw [fetch_cons hp, fetch_cons (s := s.behind e) hp]
    cases takePort p <;> rfl

/-- A step does the same whatever stands in the queues before its own appends (R41). -/
theorem step_behind (s : State) (e : Env) : step (s.behind e) = onNext (·.behind e) (step s) := by
  obtain ⟨x, s', hf⟩ : ∃ x s', fetch s = (x, s') := ⟨_, _, rfl⟩
  rw [step, step, fetch_behind, hf]
  cases x with
  | none => rfl
  | some x => exact exec_behind (decode s'.fd.state x) s' e

theorem State.emptied_behind (s : State) : s.emptied.behind s.env = s := by
  simp [State.behind, State.emptied, appendEnv, Env.reset]

/-- A step is the step from empty queues, behind the entries that the queues hold (R41). -/
theorem step_eq_emptied (s : State) : step s = onNext (·.behind s.env) (step s.emptied) := by
  rw [← step_behind, State.emptied_behind]

end Behind

/-- Settles O40: two states that differ in their queues alone have the same step from empty queues, and that step's queues are
what either of them appends. -/
theorem queuesAreAppendedToAndNeverRead : Obligations.QueuesAreAppendedToAndNeverRead := by
  refine ⟨fun s s' t hcks hver hasm hfd hpend h => ?_, rfl, rfl, rfl, rfl, rfl, rfl⟩
  have hsame : s'.emptied = s.emptied := by simp [State.emptied, hcks, hver, hasm, hfd, hpend]
  rw [step_eq_emptied, onNext_eq_next_iff] at h
  obtain ⟨u, hu, rfl⟩ := h
  refine ⟨u.env, rfl, ?_⟩
  rw [step_eq_emptied, hsame, hu]
  rfl

/-! ### The reset state -/

/-- Settles O33: RESET writes the reset value of each unit, whatever the state. -/
theorem resetEventResetsEveryUnit : Obligations.ResetEventResetsEveryUnit :=
  ⟨fun _ => rfl, exec_reset, exec_reset⟩

theorem queueInv_reset : QueueInv Env.reset := ⟨nofun, rfl, rfl, nofun⟩

/-- Settles O38: each unit's reset value meets its invariant, and every queue is empty. -/
theorem resetMeetsTheInvariants : Obligations.ResetMeetsTheInvariants :=
  ⟨⟨fdInv_reset, asmInv_reset, verInv_reset⟩, queueInv_reset, ⟨⟨nofun, rfl⟩, rfl, rfl, rfl, rfl⟩, rfl, rfl⟩

end Sys2Proof.Machine
end

section
/-! SUPPORT. Proof of the statement about the order between units (20_memory.md): operations of different units commute, because
an operation reads and writes its own unit's part of the machine alone. -/

namespace Sys2Proof.Machine

/-! ### A unit's part of the machine -/

/-- `s` with the part of unit `u` as it is in `t`: the unit's state and the queues it appends to, for ASM with the held events
(R73, R135). For `.all`, the unit of RESET, that is every unit and no queue (R262). -/
def State.withUnit (s : State) : BlockUnit → State → State
  | .cks, t => { s with cks := t.cks }
  | .ver, t => { s with ver := t.ver, env := { s.env with verq := t.env.verq } }
  | .asm, t => { s with
      asm := t.asm, env := { s.env with txq := t.env.txq, asmrq := t.env.asmrq, held := t.env.held } }
  | .fd, t => { s with
      fd := t.fd, env := { s.env with dataq := t.env.dataq, chanq := t.env.chanq, resq := t.env.resq } }
  | .all, t => { t with env := s.env }

section WithUnit

variable {i : Instr} {u w : BlockUnit} {s t t' : State} {v b : Byte}

/-- To change unit `u` alone is to take `u`'s part, and nothing else, from the new state. -/
theorem changesOnly_iff : ChangesOnly u s t ↔ t = s.withUnit u t := by
  cases u with
  | cks | ver | asm | fd => rfl
  | all => exact ⟨fun h => congrArg (fun e => { t with env := e }) h, fun h => (congrArg State.env h :)⟩

theorem withUnit_self (s : State) (u : BlockUnit) : s.withUnit u s = s := by
  cases u <;> rfl

/-- A part taken anew replaces what was taken before. -/
theorem withUnit_withUnit_same (u : BlockUnit) (s t t' : State) : (s.withUnit u t).withUnit u t' = s.withUnit u t' := by
  cases u <;> rfl

/-- The parts of two units lie apart: they can be taken in either order. -/
theorem withUnit_comm (hne : u ≠ w) (hu : u ≠ .all) (hw : w ≠ .all) (s t t' : State) :
    (s.withUnit u t).withUnit w t' = (s.withUnit w t').withUnit u t := by
  cases u with
  | all => exact absurd rfl hu
  | cks | ver | asm | fd =>
    cases w with
    | all => exact absurd rfl hw
    | cks | ver | asm | fd => first | rfl | exact absurd rfl hne

/-! What the meanings of FD and ASM read of the state is their own, and every update they make stays in their own part. -/

@[simp] theorem withUnit_fd_fd : (s.withUnit .fd t).fd = t.fd := rfl
@[simp] theorem withUnit_fd_setFdState (st : FdState) :
    (s.withUnit .fd t).setFdState st = s.withUnit .fd (t.setFdState st) := rfl
@[simp] theorem withUnit_fd_storeHdr : storeHdr v (s.withUnit .fd t) = s.withUnit .fd (storeHdr v t) := rfl
@[simp] theorem withUnit_fd_storePay : storePay v (s.withUnit .fd t) = s.withUnit .fd (storePay v t) := rfl

@[simp] theorem withUnit_asm_asm : (s.withUnit .asm t).asm = t.asm := rfl
@[simp] theorem withUnit_asm_setAsm (a : Asm) : (s.withUnit .asm t).setAsm a = s.withUnit .asm (t.setAsm a) := rfl
@[simp] theorem withUnit_asm_hold (e : PortEvent) : (s.withUnit .asm t).hold e = s.withUnit .asm (t.hold e) := rfl
@[simp] theorem withUnit_asm_addTx (x : BitVec 9) : (s.withUnit .asm t).addTx x = s.withUnit .asm (t.addTx x) := rfl
@[simp] theorem withUnit_asm_addAsmr (a : AsmStatus) :
    (s.withUnit .asm t).addAsmr a = s.withUnit .asm (t.addAsmr a) := rfl

@[simp] theorem completeFrame_withUnit :
    completeFrame (s.withUnit .fd t) = onNext (s.withUnit .fd) (completeFrame t) := by
  rw [completeFrame, completeFrame, onNext_ite]
  rfl

theorem pushHdr_withUnit : pushHdr v (s.withUnit .fd t) = onNext (s.withUnit .fd) (pushHdr v t) := by
  simp [pushHdr_eq, onNext_ite]

theorem pushPay_withUnit : pushPay v (s.withUnit .fd t) = onNext (s.withUnit .fd) (pushPay v t) := by
  simp [pushPay_eq, onNext_ite]

theorem execAsmPush_withUnit : execAsmPush b (s.withUnit .asm t) = onNext (s.withUnit .asm) (execAsmPush b t) := by
  cases hp : t.asm.phase <;> simp [execAsmPush, hp]

theorem execAsmPushL_withUnit : execAsmPushL b (s.withUnit .asm t) = onNext (s.withUnit .asm) (execAsmPushL b t) := by
  cases hp : t.asm.phase <;> simp [execAsmPushL, hp, onNext_ite]

theorem execAsmPop_withUnit : execAsmPop (s.withUnit .asm t) = onNext (s.withUnit .asm) (execAsmPop t) := by
  cases hp : t.asm.phase with
  | load => simp [execAsmPop, hp]
  | emit => cases hb : packetByte t.asm <;> simp [execAsmPop, hp, hb]

/-! ### An operation and the parts of the machine -/

/-- An operation reads its own unit's part alone: with that part as in `t`, it does what it does in `t` (R4, R73). -/
theorem exec_withUnit_own (i : Instr) (s t : State) :
    exec i (s.withUnit (unitOf i) t) = onNext (s.withUnit (unitOf i)) (exec i t) := by
  cases i with
  | fdHdrLit b | fdHdrEscAny b => exact pushHdr_withUnit
  | fdPayLit b | fdPayEscAny b => exact pushPay_withUnit
  | asmPush b => exact execAsmPush_withUnit
  | asmPushL b => exact execAsmPushL_withUnit
  | asmPop => exact execAsmPop_withUnit
  | fdHuntNone | fdHuntSof | fdHuntStray b | fdHdrNone | fdHdrEsc | fdHdrEscNone | fdStop0None | fdStop0Any b
  | fdStop1None | fdStop1Any b | fdPayNone | fdPayEsc | fdPayEscNone | fdAbort
  | verPush b | verPushL b | cksClear | cksAdd b | reset => rfl

/-- An operation that answers takes nothing but its own unit's part from its next state (R4, R73). -/
theorem exec_eq_withUnit (h : exec i s = .next t) : t = s.withUnit (unitOf i) t :=
  changesOnly_iff.1 (exec_changesOnly h)

/-- Another unit's part passes through an operation unread and unchanged (R73). -/
theorem exec_withUnit_other (hne : u ≠ unitOf i) (hu : u ≠ .all) (hi : unitOf i ≠ .all) (h : exec i s = .next t) :
    exec i (s.withUnit u t') = .next (t.withUnit u t') :=
  calc exec i (s.withUnit u t')
      = exec i ((s.withUnit u t').withUnit (unitOf i) s) := by rw [withUnit_comm hne hu hi, withUnit_self]
    _ = .next ((s.withUnit u t').withUnit (unitOf i) t) := by rw [exec_withUnit_own, h, onNext_next]
    _ = .next (t.withUnit u t') := by rw [withUnit_comm hne hu hi, ← exec_eq_withUnit h]

/-- The part that an operation changed, put back as it was, gives the state before the operation. -/
theorem exec_undo (h : exec i s = .next t) : t.withUnit (unitOf i) s = s := by
  rw [exec_eq_withUnit h, withUnit_withUnit_same, withUnit_self]

end WithUnit

/-- Settles O44: the state between the operations in the swapped order is `s` with the second unit's part as the first order
leaves it in `s₂`; each operation passes by the other unit's part. -/
theorem unitStepsCommute : Obligations.UnitStepsCommute := by
  intro i j s s₁ s₂ hne hi hj h₁ h₂
  refine ⟨s.withUnit (unitOf j) s₂, ?second_first, ?first_after⟩
  case second_first =>
    calc exec j s
        = exec j (s₁.withUnit (unitOf i) s) := by rw [exec_undo h₁]
      _ = .next (s₂.withUnit (unitOf i) s) := exec_withUnit_other hne hi hj h₂
      _ = .next ((s₁.withUnit (unitOf j) s₂).withUnit (unitOf i) s) := by rw [← exec_eq_withUnit h₂]
      _ = .next (s.withUnit (unitOf j) s₂) := by rw [← withUnit_comm hne hi hj, exec_undo h₁]
  case first_after =>
    calc exec i (s.withUnit (unitOf j) s₂)
        = .next (s₁.withUnit (unitOf j) s₂) := exec_withUnit_other hne.symm hj hi h₁
      _ = .next s₂ := by rw [← exec_eq_withUnit h₂]

end Sys2Proof.Machine
end

section
/-! SUPPORT. Proofs of the statements about the encoding (30_encoding.md): the decoder and the encoder are inverse to each
other up to the ignored bits, every event selects an operation of the map, and a RESQ record and its word agree. -/

namespace Sys2Proof.Machine

/-! ### An event word is the word of its fields -/

/-- Flag and byte are all of a 9-bit word (R87, R88). -/
theorem flagWord_fields (w : BitVec 9) : flagWord (w.getLsbD 8) (lowByte w) = w := by
  apply BitVec.eq_of_getLsbD_eq
  intro i hi
  obtain hlow | rfl : i < 8 ∨ i = 8 := by omega
  · have hbyte := congrArg (·.getLsbD i) (lowByte_flagWord (w.getLsbD 8) (lowByte w))
    simpa [lowByte, hlow] using hbyte
  · exact flagWord_flag _ _

theorem exists_flagWord (w : BitVec 9) : ∃ f b, w = flagWord f b := ⟨_, _, (flagWord_fields w).symm⟩

/-- `abort`, `valid` and the byte are all of a 10-bit word (R86). -/
theorem fdWord_fields (w : BitVec 10) : fdWord (w.getLsbD 9) (w.getLsbD 8) (fdByte w) = w := by
  apply BitVec.eq_of_getLsbD_eq
  intro i hi
  obtain hlow | rfl | rfl : i < 8 ∨ i = 8 ∨ i = 9 := by omega
  · have hbyte := congrArg (·.getLsbD i) (fdByte_fdWord (w.getLsbD 9) (w.getLsbD 8) (fdByte w))
    simpa [fdByte, hlow] using hbyte
  · exact fdWord_valid _ _ _
  · exact fdWord_abort _ _ _

theorem exists_fdWord (w : BitVec 10) : ∃ a v b, w = fdWord a v b := ⟨_, _, _, (fdWord_fields w).symm⟩

/-- The byte of an FD event word is the word's number modulo 256 (R86). -/
theorem fdByte_eq_ofNat (w : BitVec 10) : fdByte w = BitVec.ofNat 8 w.toNat := rfl

/-! ### What an FD event word selects -/

section FdEventWord

variable {w : BitVec 10}

theorem decodeFd_of_abort (st : FdState) (ha : w.getLsbD 9 = true) : decodeFd st w = .fdAbort := if_pos ha

theorem decodeFd_of_not_abort (st : FdState) (ha : w.getLsbD 9 = false) :
    decodeFd st w = if w.getLsbD 8 then decodeByte st (fdByte w) else decodeNone st :=
  if_neg (Bool.eq_false_iff.1 ha)

theorem decodeFd_of_poll (st : FdState) (ha : w.getLsbD 9 = false) (hv : w.getLsbD 8 = false) :
    decodeFd st w = decodeNone st :=
  (decodeFd_of_not_abort st ha).trans (if_neg (Bool.eq_false_iff.1 hv))

theorem decodeFd_of_byte (st : FdState) (ha : w.getLsbD 9 = false) (hv : w.getLsbD 8 = true) :
    decodeFd st w = decodeByte st (fdByte w) :=
  (decodeFd_of_not_abort st ha).trans (if_pos hv)

end FdEventWord

/-- Settles O1: the three cases of the FD event word. -/
theorem fdEventWordNamesItsEvent : Obligations.FdEventWordNamesItsEvent := by
  refine fun st w => ⟨decodeFd_of_abort st, decodeFd_of_poll st, fun ha hv => ?byte⟩
  case byte =>
    rw [← fdByte_eq_ofNat]
    exact decodeFd_of_byte st ha hv

/-! ### Decode after encode -/

/-- The canonical event of a well-formed operation selects it, row by row of the operation map (R92). -/
theorem decode_encode : ∀ i : Instr, Laws.RoundTrip.Statement i
  | .fdHuntNone => Laws.RoundTrip.fdHuntNone
  | .fdHuntSof => Laws.RoundTrip.fdHuntSof
  | .fdHuntStray b => Laws.RoundTrip.fdHuntStray b
  | .fdHdrNone => Laws.RoundTrip.fdHdrNone
  | .fdHdrEsc => Laws.RoundTrip.fdHdrEsc
  | .fdHdrLit b => Laws.RoundTrip.fdHdrLit b
  | .fdHdrEscNone => Laws.RoundTrip.fdHdrEscNone
  | .fdHdrEscAny b => Laws.RoundTrip.fdHdrEscAny b
  | .fdStop0None => Laws.RoundTrip.fdStop0None
  | .fdStop0Any b => Laws.RoundTrip.fdStop0Any b
  | .fdStop1None => Laws.RoundTrip.fdStop1None
  | .fdStop1Any b => Laws.RoundTrip.fdStop1Any b
  | .fdPayNone => Laws.RoundTrip.fdPayNone
  | .fdPayEsc => Laws.RoundTrip.fdPayEsc
  | .fdPayLit b => Laws.RoundTrip.fdPayLit b
  | .fdPayEscNone => Laws.RoundTrip.fdPayEscNone
  | .fdPayEscAny b => Laws.RoundTrip.fdPayEscAny b
  | .fdAbort => Laws.RoundTrip.fdAbort
  | .asmPush b => Laws.RoundTrip.asmPush b
  | .asmPushL b => Laws.RoundTrip.asmPushL b
  | .asmPop => Laws.RoundTrip.asmPop
  | .verPush b => Laws.RoundTrip.verPush b
  | .verPushL b => Laws.RoundTrip.verPushL b
  | .cksClear => Laws.RoundTrip.cksClear
  | .cksAdd b => Laws.RoundTrip.cksAdd b
  | .reset => Laws.RoundTrip.reset

/-- Settles O3: the round trip of each row of the operation map. -/
theorem decodeEncodeGivesTheOperation : Obligations.DecodeEncodeGivesTheOperation :=
  fun i st hwf hsel => decode_encode i hwf st hsel

/-! ### Encode after decode -/

/-- The seven NONE operations share one canonical event: the FD state is not in the word (R86). -/
theorem encode_decodeNone (st : FdState) : encode (decodeNone st) = .fdEv (fdWord false false 0) := by
  cases st <;> rfl

/-- The byte comes back also where it is the reserved value, which the operation does not carry as operand (R92, R94). -/
theorem encode_decodeByte (st : FdState) (b : Byte) : encode (decodeByte st b) = .fdEv (fdWord false true b) := by
  cases st with
  | hunt | hdr | pay =>
    simp only [decodeByte]
    split
    case isTrue h => rw [h, encode]
    case isFalse => rfl
  | hdrEsc | stop0 | stop1 | payEsc => rfl

/-- The canonical form of a word of given fields (R97, U21). -/
theorem canonical_fdWord (a v : Bool) (b : Byte) : canonical (.fdEv (fdWord a v b)) =
    if a then .fdEv (fdWord true false 0) else if v then .fdEv (fdWord a v b) else .fdEv (fdWord false false 0) := by
  simp only [canonical, fdWord_abort, fdWord_valid]

theorem canonical_cksIn_flagWord (f : Bool) (b : Byte) : canonical (.cksIn (flagWord f b)) =
    if f then .cksIn (flagWord true 0) else .cksIn (flagWord f b) := by
  simp only [canonical, flagWord_flag]

theorem encode_decodeFd (st : FdState) (w : BitVec 10) : encode (decodeFd st w) = canonical (.fdEv w) := by
  obtain ⟨a, v, b, rfl⟩ := exists_fdWord w
  rw [decodeFd_fdWord, canonical_fdWord]
  cases a with
  | true => rfl
  | false =>
    cases v with
    | true => exact encode_decodeByte st b
    | false => exact encode_decodeNone st

theorem encode_decodeAsmIn (w : BitVec 9) : encode (decodeAsmIn w) = .asmIn w := by
  obtain ⟨f, b, rfl⟩ := exists_flagWord w
  rw [decodeAsmIn_flagWord]
  cases f <;> rfl

theorem encode_decodeVerIn (w : BitVec 9) : encode (decodeVerIn w) = .verIn w := by
  obtain ⟨f, b, rfl⟩ := exists_flagWord w
  rw [decodeVerIn_flagWord]
  cases f <;> rfl

theorem encode_decodeCksIn (w : BitVec 9) : encode (decodeCksIn w) = canonical (.cksIn w) := by
  obtain ⟨f, b, rfl⟩ := exists_flagWord w
  rw [decodeCksIn_flagWord, canonical_cksIn_flagWord]
  cases f <;> rfl

/-- Settles O4: port by port; only FD's and CKS's words have ignored bits. -/
theorem encodeDecodeGivesTheCanonicalEvent : Obligations.EncodeDecodeGivesTheCanonicalEvent := by
  intro st e
  cases e with
  | fdEv w => exact encode_decodeFd st w
  | asmIn w => exact encode_decodeAsmIn w
  | verIn w => exact encode_decodeVerIn w
  | cksIn w => exact encode_decodeCksIn w
  | asmOut | rst => rfl

/-! ### What the decoder selects -/

theorem decodeNone_wellFormed (st : FdState) : (decodeNone st).wellFormed = true := by
  cases st <;> rfl

/-- A byte is the operand of a stray or literal operation only when it is not the reserved value of the state (R92). -/
theorem decodeByte_wellFormed (st : FdState) (b : Byte) : (decodeByte st b).wellFormed = true := by
  cases st with
  | hunt | hdr | pay =>
    simp only [decodeByte]
    split
    case isTrue => rfl
    case isFalse h => exact bne_iff_ne.2 h
  | hdrEsc | stop0 | stop1 | payEsc => rfl

/-- The decoder gives an operation only bytes that its row of R92 admits. -/
theorem decode_wellFormed (st : FdState) (e : PortEvent) : (decode st e).wellFormed = true := by
  cases e with
  | fdEv w =>
    simp only [decode, decodeFd]
    split_ifs
    · rfl
    · exact decodeByte_wellFormed st (fdByte w)
    · exact decodeNone_wellFormed st
  | asmIn w => simp only [decode, decodeAsmIn]; split <;> rfl
  | verIn w => simp only [decode, decodeVerIn]; split <;> rfl
  | cksIn w => simp only [decode, decodeCksIn]; split <;> rfl
  | asmOut | rst => rfl

/-- Settles O5: the byte is one the row admits, and the row is one of the state's. -/
theorem decodedOperationIsSelected : Obligations.DecodedOperationIsSelected :=
  fun st e => ⟨decode_wellFormed st e, decode_selectedIn st e⟩

/-- Settles O6: the canonical form of an event is determined by the operation it selects, as that operation's encoding. -/
theorem decodeSeparatesCanonicalEvents : Obligations.DecodeSeparatesCanonicalEvents := by
  intro st e e' h
  calc canonical e
      = encode (decode st e) := (encodeDecodeGivesTheCanonicalEvent st e).symm
    _ = encode (decode st e') := by rw [h]
    _ = canonical e' := encodeDecodeGivesTheCanonicalEvent st e'

/-! ### The RESQ record -/

/-- The code field has no spare value (R233). -/
theorem resCodeBits_resCodeOf (c : BitVec 2) : resCodeBits (resCodeOf c) = c.toNat := by
  revert c
  decide

/-- A bit of a word as a number. -/
theorem getLsbD_toNat (w : BitVec 12) (j : Nat) : (w.getLsbD j).toNat = w.toNat / 2 ^ j % 2 := by
  rw [BitVec.getLsbD, Nat.toNat_testBit]

theorem resOfWord_n (w : BitVec 12) : (resOfWord w).n = w.toNat % 128 := by
  rw [resOfWord, BitVec.extractLsb'_toNat, Nat.shiftRight_zero]

/-- The fields of a record word are all of it (R89). -/
theorem resWord_resOfWord (w : BitVec 12) : resWord (resOfWord w) = w := by
  have hw := w.isLt
  have hn := resOfWord_n w
  have hcode : resCodeBits (resOfWord w).code = w.toNat / 2 ^ 10 % 4 := by
    rw [resOfWord, resCodeBits_resCodeOf, BitVec.extractLsb'_toNat, Nat.shiftRight_eq_div_pow]
  have hcks : (resOfWord w).cksOk.toNat = w.toNat / 2 ^ 9 % 2 := getLsbD_toNat w 9
  have hodd : (resOfWord w).oddLen.toNat = w.toNat / 2 ^ 8 % 2 := getLsbD_toNat w 8
  have huf : (resOfWord w).lenUf.toNat = w.toNat / 2 ^ 7 % 2 := getLsbD_toNat w 7
  apply BitVec.eq_of_toNat_eq
  rw [resWord_toNat (by omega), hcode, hcks, hodd, huf, hn]
  omega

/-- Settles O56: the word's number, and each of the two conversions undoes the other. -/
theorem resultRecordRoundTrip : Obligations.ResultRecordRoundTrip :=
  ⟨fun _ hn => ⟨resWord_toNat hn, resOfWord_resWord hn⟩, resWord_resOfWord⟩

/-! ### Words written out -/

/-- Settles O2: the decoder, run on each of the words. -/
theorem writtenOutWordsDecode : Obligations.WrittenOutWordsDecode := by
  unfold Obligations.WrittenOutWordsDecode
  decide

end Sys2Proof.Machine
end

section
/-! SUPPORT. Proofs of the statements about the checksum (40_checksum.md): the laws of `cksum16`, what the operations of CKS
and VER do, and that a buffer run through a unit gives the checksum, or the verdict of `verify`, of its bytes. -/

namespace Sys2Proof.Machine

/-! ### The checksum of a sequence -/

section Checksum

variable (p q : List Byte) (acc v : Half) (b : Byte)

theorem cksum16_toNat : (cksum16 p).toNat = (p.map BitVec.toNat).sum % 65536 := BitVec.toNat_ofNat _ 16

theorem cksum16_append : cksum16 (p ++ q) = cksum16 p + cksum16 q := by
  rw [cksum16, List.map_append, List.sum_append, BitVec.ofNat_add, cksum16, cksum16]

/-- The sum does not see the order of its bytes (R111 (b)). -/
theorem cksum16_perm {p q : List Byte} (h : p.Perm q) : cksum16 p = cksum16 q :=
  congrArg (BitVec.ofNat 16) (h.map BitVec.toNat).sum_eq

/-- A byte adds at most 255 to the sum. -/
theorem sum_toNat_le : (p.map BitVec.toNat).sum ≤ p.length * 255 := by
  have hbyte : ∀ n ∈ p.map BitVec.toNat, n ≤ 255 := by
    rw [List.forall_mem_map]
    exact fun b _ => Nat.le_of_lt_succ b.isLt
  simpa using List.sum_le_card_nsmul _ 255 hbyte

/-- The incremental form, from any start of the accumulator (R111 (d)). -/
theorem foldl_addByte : p.foldl addByte acc = acc + cksum16 p := by
  induction p generalizing acc with
  | nil => exact (BitVec.add_zero acc).symm
  | cons b p ih => rw [List.foldl_cons, ih, addByte, cksum16_cons, BitVec.add_assoc]

theorem foldl_addByte_zero : p.foldl addByte 0 = cksum16 p :=
  (foldl_addByte p 0).trans (BitVec.zero_add _)

/-- The carry out of bit 15 is discarded (R115). -/
theorem addByte_eq_ofNat : addByte acc b = BitVec.ofNat 16 ((acc.toNat + b.toNat) % 65536) := by
  have hb := b.isLt
  apply BitVec.eq_of_toNat_eq
  rw [addByte, zext16, BitVec.toNat_add, BitVec.toNat_setWidth, BitVec.toNat_ofNat]
  omega

theorem hiByte_toNat : (hiByte v).toNat = v.toNat / 256 := by
  have hv := v.isLt
  rw [hiByte, BitVec.extractLsb'_toNat, Nat.shiftRight_eq_div_pow]
  omega

theorem loByte_toNat : (loByte v).toNat = v.toNat % 256 := by
  rw [loByte, BitVec.extractLsb'_toNat, Nat.shiftRight_zero]

theorem fromBe16_eq_ofNat (a b : Byte) : fromBe16 a b = BitVec.ofNat 16 (a.toNat * 256 + b.toNat) := by
  rw [← fromBe16_toNat, BitVec.ofNat_toNat, BitVec.setWidth_eq]

end Checksum

/-- Settles O15: a sum of at most 257 bytes stays below 65536, so the modulus does not act on it. -/
theorem checksumLaws : Obligations.ChecksumLaws := by
  refine ⟨fun p q => ?additive, fun _ _ => cksum16_perm, fun p hp => ?noWrap, ?firstWrap, foldl_addByte_zero⟩
  case additive =>
    rw [cksum16_append]
    apply BitVec.eq_of_toNat_eq
    rw [BitVec.toNat_add, BitVec.toNat_ofNat, Nat.mod_mod]
  case noWrap =>
    have hsum := sum_toNat_le p
    rw [cksum16_toNat]
    omega
  case firstWrap => rw [List.map_replicate, List.sum_replicate]; rfl

/-! ### `verify` -/

/-- A buffer verifies when its first two bytes are the checksum of the rest (R116). -/
theorem verify_cons_cons (a b : Byte) (payload : List Byte) : verify (a :: b :: payload) =
    if cksum16 payload = fromBe16 a b then .ok payload else .error .integrityError := rfl

/-- A buffer of fewer than two bytes is a LengthError (R116). -/
theorem verify_of_short : ∀ {framed : List Byte}, framed.length < 2 → verify framed = .error .lengthError
  | [], _ | [_], _ => rfl
  | _ :: _ :: _, h => absurd h (by simp)

theorem eq_fromBe16_iff (v : Half) (a b : Byte) : v = fromBe16 a b ↔ v.toNat = a.toNat * 256 + b.toNat := by
  rw [← BitVec.toNat_inj, fromBe16_toNat]

/-- Settles O12: the comparison of 16-bit values is the comparison of their numbers. -/
theorem verifyComparesThePrefix : Obligations.VerifyComparesThePrefix := by
  refine ⟨fun framed hlen => ?compared, fun _ => verify_of_short⟩
  case compared =>
    match framed, hlen with
    | a :: b :: payload, _ =>
      rw [verify_cons_cons]
      exact if_congr (eq_fromBe16_iff _ a b) rfl rfl

/-- Settles O16: the first two bytes read back as the checksum they were made of. -/
theorem checksumRoundTrip : Obligations.ChecksumRoundTrip := fun p =>
  (verify_cons_cons _ _ p).trans (if_pos (fromBe16_hi_lo (cksum16 p)).symm)

/-! ### What the operations of CKS and VER do -/

section ExecChecksum

variable (s : State) (b : Byte) (w : Ver)

theorem exec_cksClear : exec .cksClear s = .next (s.setCks { acc := 0 }) := rfl
theorem exec_cksAdd : exec (.cksAdd b) s = .next (s.setCks { acc := addByte s.cks.acc b }) := rfl
theorem exec_verPush : exec (.verPush b) s = .next (s.setVer (verTake s.ver b)) := rfl
theorem exec_verPushL : exec (.verPushL b) s =
    .next ((s.addVerr (verVerdict (verTake s.ver b))).setVer Ver.reset) := rfl

theorem decode_cksClear (st : FdState) : decode st (.cksIn (flagWord true b)) = .cksClear := decodeCksIn_flagWord true b
theorem decode_cksAdd (st : FdState) : decode st (.cksIn (flagWord false b)) = .cksAdd b := decodeCksIn_flagWord false b
theorem decode_verPush (st : FdState) : decode st (.verIn (flagWord false b)) = .verPush b := decodeVerIn_flagWord false b
theorem decode_verPushL (st : FdState) : decode st (.verIn (flagWord true b)) = .verPushL b := decodeVerIn_flagWord true b

/-! The three cases of `ver_take` (R117). -/

variable {w}

theorem verTake_of_zero (h : w.cnt = .zero) :
    verTake w b = { cnt := .one, exp := fromBe16 b (loByte w.exp), sum := w.sum } := by simp only [verTake, h]
theorem verTake_of_one (h : w.cnt = .one) :
    verTake w b = { cnt := .two, exp := fromBe16 (hiByte w.exp) b, sum := w.sum } := by simp only [verTake, h]
theorem verTake_of_two (h : w.cnt = .two) :
    verTake w b = { cnt := .two, exp := w.exp, sum := addByte w.sum b } := by simp only [verTake, h]

/-! The verdict (R118): shortness before the comparison. -/

theorem verVerdict_of_short (h : w.cnt ≠ .two) : verVerdict w = .lengthShort := by
  cases hc : w.cnt with
  | zero | one => simp only [verVerdict, hc]
  | two => exact absurd hc h

theorem verVerdict_of_two (h : w.cnt = .two) : verVerdict w = if w.sum = w.exp then .ok else .integrityError := by
  simp only [verVerdict, h]

end ExecChecksum

/-- Settles O8: the decoder ignores the byte, and what is written depends on no state. -/
theorem cksClearZeroes : Obligations.CksClearZeroes := by
  refine ⟨fun st b => decode_cksClear b st, exec_cksClear, fun s t h => ?again⟩
  case again =>
    rw [exec_cksClear] at h
    cases h
    rfl

/-- Settles O9: one addition modulo 65536. -/
theorem cksAddAccumulates : Obligations.CksAddAccumulates := by
  refine ⟨fun st b => decode_cksAdd b st, fun s b => ?adds⟩
  case adds =>
    rw [exec_cksAdd, addByte_eq_ofNat]
    rfl

/-- Settles O10: case by case of `ver.cnt`, with the halves of `ver.exp` as numbers. -/
theorem verPushTakesTheByte : Obligations.VerPushTakesTheByte := by
  refine ⟨fun st b => decode_verPush b st, fun s b => ⟨fun h => ?high, fun h => ?low, fun h => ?rest⟩⟩
  case high =>
    rw [exec_verPush, verTake_of_zero b h, fromBe16_eq_ofNat, loByte_toNat]
    rfl
  case low =>
    rw [exec_verPush, verTake_of_one b h, fromBe16_eq_ofNat, hiByte_toNat]
    rfl
  case rest =>
    rw [exec_verPush, verTake_of_two b h, addByte_eq_ofNat]
    rfl

/-- Settles O11: the verdict on VER as the byte leaves it. -/
theorem verPushLGivesOneVerdict : Obligations.VerPushLGivesOneVerdict := by
  refine ⟨fun st b => decode_verPushL b st, fun s b => ?verdict⟩
  case verdict =>
    intro v
    rw [exec_verPushL]
    by_cases hc : v.cnt = .two
    · rw [verVerdict_of_two hc, if_neg (not_not_intro hc)]
      rfl
    · rw [verVerdict_of_short hc, if_pos hc]
      rfl

/-! ### A sequence run through CKS -/

section CksRun

variable {s u : State} {k : Nat} {rest : List Ports} {b : Byte}

theorem run_traceCclr (hp : s.env.pending = traceCclr :: rest)
    (h : RunsTo k ((s.setPending rest).setCks { acc := 0 }) u) : RunsTo (k + 1) s u :=
  run_portsOf hp (by rw [decode_cksClear, exec_cksClear]) h

theorem run_traceCadd (hp : s.env.pending = traceCadd b :: rest)
    (h : RunsTo k ((s.setPending rest).setCks { acc := addByte s.cks.acc b }) u) : RunsTo (k + 1) s u :=
  run_portsOf hp (by rw [decode_cksAdd, exec_cksAdd, State.setPending_cks]) h

/-- The additions of a sequence run as the incremental form from the present sum (R115). -/
theorem run_map_traceCadd {p : List Byte} (hp : s.env.pending = p.map traceCadd ++ rest) :
    RunsTo p.length s ((s.setPending rest).setCks { acc := p.foldl addByte s.cks.acc }) := by
  induction p generalizing s with
  | nil =>
    obtain rfl : s.env.pending = rest := hp
    exact run_zero s
  | cons b p ih => exact run_traceCadd hp (ih rfl)

/-- `CSUM` clears whatever was summed before (R98). -/
theorem run_traceCsum {p : List Byte} (hp : s.env.pending = traceCsum p ++ rest) :
    RunsTo (p.length + 1) s ((s.setPending rest).setCks { acc := p.foldl addByte 0 }) :=
  run_traceCclr hp (run_map_traceCadd rfl)

end CksRun

/-- Settles O14: the run is the incremental form from 0, which is the checksum. -/
theorem cksRealizesTheChecksum : Obligations.CksRealizesTheChecksum := by
  intro s p rest hp
  have hrun := run_traceCsum hp
  rw [foldl_addByte_zero] at hrun
  exact hrun

/-! ### A buffer run through VER -/

/-- The verdict that stands for an answer of `verify` (R119). -/
def verdictOf : Except PathError (List Byte) → Verdict
  | .ok _ => .ok
  | .error .integrityError => .integrityError
  | .error .lengthError => .lengthShort

section VerRun

variable {s u : State} {k : Nat} {rest : List Ports} {b : Byte}

theorem run_traceVpush (hp : s.env.pending = traceVpush b :: rest)
    (h : RunsTo k ((s.setPending rest).setVer (verTake s.ver b)) u) : RunsTo (k + 1) s u :=
  run_portsOf hp (by rw [decode_verPush, exec_verPush, State.setPending_ver]) h

theorem run_traceVpushL (hp : s.env.pending = traceVpushL b :: rest)
    (h : RunsTo k (((s.setPending rest).addVerr (verVerdict (verTake s.ver b))).setVer Ver.reset) u) :
    RunsTo (k + 1) s u :=
  run_portsOf hp (by rw [decode_verPushL, exec_verPushL, State.setPending_ver]) h

/-- After the first two the bytes of a buffer are summed and nothing else (R117). -/
theorem foldl_verTake_of_two (p : List Byte) {w : Ver} (h : w.cnt = .two) :
    p.foldl verTake w = { cnt := .two, exp := w.exp, sum := p.foldl addByte w.sum } := by
  induction p generalizing w with
  | nil => rw [← h, List.foldl_nil, List.foldl_nil]
  | cons b p ih => rw [List.foldl_cons, verTake_of_two b h, ih rfl, List.foldl_cons]

/-- From its reset state VER holds the value of the first two bytes and the checksum of the rest (R117). -/
theorem foldl_verTake_reset (a b : Byte) (payload : List Byte) :
    (a :: b :: payload).foldl verTake Ver.reset = { cnt := .two, exp := fromBe16 a b, sum := cksum16 payload } := by
  rw [List.foldl_cons, List.foldl_cons, verTake_of_zero a Ver.reset_cnt, verTake_of_one b rfl,
    foldl_verTake_of_two payload rfl, hiByte_fromBe16, Ver.reset_sum, foldl_addByte_zero]

/-- The verdict on the bytes of a buffer is the answer of `verify` (R116, R118). -/
theorem verVerdict_foldl_reset (framed : List Byte) :
    verVerdict (framed.foldl verTake Ver.reset) = verdictOf (verify framed) := by
  match framed with
  | [] | [_] => rfl
  | a :: b :: payload =>
    rw [foldl_verTake_reset, verVerdict_of_two rfl, verify_cons_cons]
    split_ifs <;> rfl

/-- `VBUF` takes the bytes in order, from whatever VER holds, and gives the verdict on all of them (R98, R118). -/
theorem run_traceVbuf {framed : List Byte} (hne : framed ≠ []) (hp : s.env.pending = traceVbuf framed ++ rest) :
    RunsTo framed.length s
      (((s.setPending rest).addVerr (verVerdict (framed.foldl verTake s.ver))).setVer Ver.reset) := by
  induction framed generalizing s with
  | nil => exact absurd rfl hne
  | cons b tail ih =>
    cases tail with
    | nil => exact run_traceVpushL hp (run_zero _)
    | cons c tail => exact run_traceVpush hp (ih (List.cons_ne_nil c tail) rfl)

end VerRun

/-- Settles O13: the run gives the verdict on the bytes taken from reset, which is the answer of `verify`. -/
theorem verRealizesVerify : Obligations.VerRealizesVerify := by
  intro s framed rest hne hver hp
  have hrun := run_traceVbuf hne hp
  rw [hver, verVerdict_foldl_reset, ← hver] at hrun
  exact hrun

end Sys2Proof.Machine
end

section
/-! SUPPORT. Proofs of the statements about the packet assembler (41_packet_assembler.md): what each operation of ASM does in
each phase, and that a command run through ASM from reset comes out as its packet. -/

namespace Sys2Proof.Machine

/-! ### What the operations of ASM do -/

section ExecAsm

variable {s : State} {a : Asm} (b : Byte) (st : FdState)

theorem decode_asmPush : decode st (.asmIn (flagWord false b)) = .asmPush b := decodeAsmIn_flagWord false b
theorem decode_asmPushL : decode st (.asmIn (flagWord true b)) = .asmPushL b := decodeAsmIn_flagWord true b
theorem decode_asmPop : decode st .asmOut = .asmPop := rfl

/-! In the phase that an operation fits (R131, R132, R134). -/

theorem exec_asmPush_of_load (h : s.asm.phase = .load) :
    exec (.asmPush b) s = .next (s.setAsm (asmTake s.asm b)) := by
  simp only [exec, execAsmPush, h]

theorem exec_asmPushL_of_ovf (h : s.asm.phase = .load) (ho : (asmTake s.asm b).ovf = true) :
    exec (.asmPushL b) s =
      .next ((s.addAsmr .overflow).setAsm { asmTake s.asm b with buf := [], sum := 0, ovf := false }) := by
  simp only [exec, execAsmPushL, h, ho, if_true, State.report_assembled]

theorem exec_asmPushL_of_not_ovf (h : s.asm.phase = .load) (ho : (asmTake s.asm b).ovf = false) :
    exec (.asmPushL b) s = .next ((s.addAsmr .built).setAsm { asmTake s.asm b with phase := .emit, idx := 0 }) := by
  simp only [exec, execAsmPushL, h, ho, Bool.false_eq_true, if_false, State.report_assembled]

variable {b} in
theorem exec_asmPop_of_emit (h : s.asm.phase = .emit) (hb : packetByte s.asm = some b) :
    exec .asmPop s = .next ((s.addTx (txWord (packetLast s.asm) b)).setAsm (asmAdvance s.asm)) := by
  simp only [exec, execAsmPop, h, hb]

/-! In the other phase the event is held (R135). -/

theorem exec_asmPush_of_emit (h : s.asm.phase = .emit) :
    exec (.asmPush b) s = .next (s.hold (.asmIn (flagWord false b))) := by
  simp only [exec, execAsmPush, h, encode]

theorem exec_asmPushL_of_emit (h : s.asm.phase = .emit) :
    exec (.asmPushL b) s = .next (s.hold (.asmIn (flagWord true b))) := by
  simp only [exec, execAsmPushL, h, encode]

theorem exec_asmPop_of_load (h : s.asm.phase = .load) : exec .asmPop s = .next (s.hold .asmOut) := by
  simp only [exec, execAsmPop, h, encode]

theorem outPorts_asmInReady_of_emit (h : s.asm.phase = .emit) : (outPorts s).asmInReady = false := by
  simp only [outPorts, h]
  rfl

theorem outPorts_asmOutValid_of_load (h : s.asm.phase = .load) : (outPorts s).asmOutValid = false := by
  simp only [outPorts, h]
  rfl

/-! The shared procedures, with their conditions and values as numbers. -/

theorem asmTake_eq (a : Asm) : asmTake a b =
    if a.buf.length = 257 then { a with ovf := true }
    else { a with buf := a.buf ++ [b], sum := BitVec.ofNat 16 ((a.sum.toNat + b.toNat) % 65536) } := by
  rw [asmTake, addByte_eq_ofNat]

theorem packetLast_of_not_last (h : a.idx ≠ a.buf.length + 1) : packetLast a = false :=
  Bool.eq_false_iff.2 (mt (packetLast_iff a).1 h)

/-- The mark of the last byte is bit 8 of a TXQ entry (R90, R45). -/
theorem txWord_eq_ofNat (last : Bool) :
    txWord last b = BitVec.ofNat 9 ((if last = true then 256 else 0) + b.toNat) := by
  have hb := b.isLt
  apply BitVec.eq_of_toNat_eq
  rw [txWord, BitVec.toNat_append, ← Nat.shiftLeft_add_eq_or_of_lt hb, Nat.shiftLeft_eq, BitVec.toNat_ofNat]
  cases last with
  | true => rw [if_pos rfl, BitVec.toNat_ofBool, Bool.toNat_true]; omega
  | false => rw [if_neg Bool.false_ne_true, BitVec.toNat_ofBool, Bool.toNat_false]; omega

end ExecAsm

/-- Settles O18: the byte is taken. -/
theorem asmPushLoadsTheByte : Obligations.AsmPushLoadsTheByte := by
  refine ⟨fun st b => decode_asmPush b st, fun s b hload => ?taken⟩
  case taken =>
    rw [exec_asmPush_of_load b hload, asmTake_eq]
    rfl

/-- Settles O19: the two ends of a command, by `asm.ovf` once the byte is taken. -/
theorem asmPushLEndsTheCommand : Obligations.AsmPushLEndsTheCommand := by
  refine ⟨fun st b => decode_asmPushL b st, fun s b hload => ?ends⟩
  case ends =>
    intro a
    by_cases ho : a.ovf = true
    · rw [if_pos ho, if_pos ho]
      exact exec_asmPushL_of_ovf b hload ho
    · rw [if_neg ho, if_neg ho]
      exact exec_asmPushL_of_not_ovf b hload (Bool.eq_false_iff.2 ho)

/-- Settles O20: a packet byte stands at the index, and the last one is marked and brings ASM back to LOAD. -/
theorem asmPopEmitsThePacketByte : Obligations.AsmPopEmitsThePacketByte := by
  refine ⟨decode_asmPop, fun s hemit hidx => ?emits⟩
  case emits =>
    obtain ⟨b, hb⟩ := packetByte_isSome hidx
    refine ⟨b, packetByte_eq s.asm ▸ hb, ?_⟩
    rw [exec_asmPop_of_emit hemit hb, txWord_eq_ofNat]
    obtain ⟨hlast, hadv⟩ | ⟨hnot, hadv⟩ := asmAdvance_cases s.asm
    · rw [hadv, (packetLast_iff _).2 hlast, if_pos hlast, if_pos hlast]
      rfl
    · rw [hadv, packetLast_of_not_last hnot, if_neg hnot, if_neg hnot]
      rfl

/-- Settles O21: the ready and valid outputs by the phase, and the held event of each operation. -/
theorem asmHeldEventChangesNothing : Obligations.AsmHeldEventChangesNothing :=
  ⟨fun _ b h => ⟨outPorts_asmInReady_of_emit h, exec_asmPush_of_emit b h, exec_asmPushL_of_emit b h⟩,
    fun _ h => ⟨outPorts_asmOutValid_of_load h, exec_asmPop_of_load h⟩⟩

/-! ### A command run through ASM -/

/-- ASM with the bytes of a command and their checksum, none dropped (R28 to R32). -/
def Asm.holding (phase : AsmPhase) (buf : List Byte) (idx : Nat) : Asm :=
  { phase := phase, buf := buf, sum := cksum16 buf, idx := idx, ovf := false }

/-- Append a sequence of entries to TXQ (R45). -/
def State.addTxs (s : State) (ws : List (BitVec 9)) : State :=
  { s with env := { s.env with txq := s.env.txq ++ ws } }

section AsmRun

variable {s u : State} {k idx : Nat} {rest : List Ports} {b : Byte} {buf : List Byte}

theorem holding_reset : Asm.holding .load [] 0 = Asm.reset := rfl

/-- A byte that finds room joins the buffer and the checksum (R131). -/
theorem asmTake_holding (h : buf.length < 257) (b : Byte) :
    asmTake (Asm.holding .load buf 0) b = Asm.holding .load (buf ++ [b]) 0 := by
  obtain ⟨hfull, -⟩ | ⟨-, htake⟩ := asmTake_cases (Asm.holding .load buf 0) b
  · exact absurd hfull (Nat.ne_of_lt h)
  · rw [htake, Asm.holding, Asm.holding, cksum16_concat]

/-- What is emitted is the packet of the bytes held (R130, R134). -/
theorem packetByte_holding (phase : AsmPhase) (buf : List Byte) (idx : Nat) :
    packetByte (Asm.holding phase buf idx) = (buildPacket buf)[idx]? := packetByte_eq _

theorem asmAdvance_holding_last : asmAdvance (Asm.holding .emit buf (buf.length + 1)) = Asm.reset :=
  ((asmAdvance_cases _).resolve_right fun hnot => hnot.1 rfl).2

theorem asmAdvance_holding (h : idx ≠ buf.length + 1) :
    asmAdvance (Asm.holding .emit buf idx) = Asm.holding .emit buf (idx + 1) :=
  ((asmAdvance_cases _).resolve_left fun hlast => h hlast.1).2

theorem buildPacket_length (c : List Byte) : (buildPacket c).length = c.length + 2 := by
  rw [buildPacket, List.length_append]
  exact Nat.add_comm 2 c.length

/-- The last byte of a packet is the last one of its command. -/
theorem buildPacket_dropLast_concat {c : List Byte} (hne : c ≠ []) :
    (buildPacket c).dropLast ++ [c.getLastD 0] = buildPacket c := by
  obtain ⟨p, b, rfl⟩ := (List.eq_nil_or_concat c).resolve_left hne
  rw [List.concat_eq_append, buildPacket, ← List.append_assoc, List.dropLast_concat, List.getLastD_concat]

theorem State.addTxs_concat (s : State) (ws : List (BitVec 9)) (w : BitVec 9) :
    s.addTxs (ws ++ [w]) = (s.addTxs ws).addTx w := by
  simp only [State.addTxs, State.addTx, List.append_assoc]

theorem State.addTxs_addTx (s : State) (w : BitVec 9) (ws : List (BitVec 9)) :
    (s.addTx w).addTxs ws = s.addTxs (w :: ws) := by
  simp only [State.addTxs, State.addTx, List.append_assoc, List.singleton_append]

theorem run_traceApush (hp : s.env.pending = traceApush b :: rest) (hload : s.asm.phase = .load)
    (h : RunsTo k ((s.setPending rest).setAsm (asmTake s.asm b)) u) : RunsTo (k + 1) s u :=
  run_portsOf hp (by rw [decode_asmPush]; exact exec_asmPush_of_load b hload) h

theorem run_traceApushL (hp : s.env.pending = traceApushL b :: rest) (hload : s.asm.phase = .load)
    (ho : (asmTake s.asm b).ovf = false)
    (h : RunsTo k (((s.setPending rest).addAsmr .built).setAsm { asmTake s.asm b with phase := .emit, idx := 0 }) u) :
    RunsTo (k + 1) s u :=
  run_portsOf hp (by rw [decode_asmPushL]; exact exec_asmPushL_of_not_ovf b hload ho) h

theorem run_traceApop (hp : s.env.pending = traceApop :: rest) (hemit : s.asm.phase = .emit)
    (hb : packetByte s.asm = some b)
    (h : RunsTo k (((s.setPending rest).addTx (txWord (packetLast s.asm) b)).setAsm (asmAdvance s.asm)) u) :
    RunsTo (k + 1) s u :=
  run_portsOf hp (by rw [decode_asmPop]; exact exec_asmPop_of_emit hemit hb) h

/-- `CMD` loads a command that fits behind the bytes already held, and the packet is built (R98, R131, R132). -/
theorem run_traceCmd {c : List Byte} (hne : c ≠ []) (hlen : buf.length + c.length ≤ 257)
    (ha : s.asm = Asm.holding .load buf 0) (hp : s.env.pending = traceCmd c ++ rest) :
    RunsTo c.length s (((s.setPending rest).addAsmr .built).setAsm (Asm.holding .emit (buf ++ c) 0)) := by
  induction c generalizing s buf with
  | nil => exact absurd rfl hne
  | cons b tail ih =>
    have hload : s.asm.phase = .load := by rw [ha]; rfl
    rw [List.length_cons] at hlen
    have htake : asmTake s.asm b = Asm.holding .load (buf ++ [b]) 0 := by rw [ha, asmTake_holding (by omega)]
    cases tail with
    | nil =>
      refine run_traceApushL hp hload (by rw [htake]; rfl) ?_
      rw [htake]
      exact run_zero _
    | cons c tail =>
      refine run_traceApush hp hload ?_
      rw [List.append_cons buf b (c :: tail), htake]
      refine ih (List.cons_ne_nil c tail) ?_ rfl rfl
      rw [List.length_append, List.length_singleton]
      omega

/-- The pops of what is left of a packet, after the bytes `pre` of it, emit `mid` unmarked and the last byte marked, and leave
ASM at reset (R98, R134). -/
theorem run_replicate_traceApop {pre mid : List Byte} {z : Byte} (hpacket : pre ++ mid ++ [z] = buildPacket buf)
    (ha : s.asm = Asm.holding .emit buf pre.length)
    (hp : s.env.pending = List.replicate (mid.length + 1) traceApop ++ rest) :
    RunsTo (mid.length + 1) s
      (((s.setPending rest).addTxs (mid.map (txWord false) ++ [txWord true z])).setAsm Asm.reset) := by
  have hemit : s.asm.phase = .emit := by rw [ha]; rfl
  have hlen := congrArg List.length hpacket
  rw [buildPacket_length, List.length_append, List.length_append, List.length_singleton] at hlen
  induction mid generalizing s pre with
  | nil =>
    have hidx : pre.length = buf.length + 1 := by rw [List.length_nil] at hlen; omega
    have hb : packetByte s.asm = some z := by rw [ha, packetByte_holding, ← hpacket]; simp
    have hlast : packetLast s.asm = true := by rw [ha, packetLast_iff]; exact hidx
    refine run_traceApop hp hemit hb ?_
    rw [hlast, ha, hidx, asmAdvance_holding_last]
    exact run_zero _
  | cons b mid ih =>
    have hidx : pre.length ≠ buf.length + 1 := by rw [List.length_cons] at hlen; omega
    have hb : packetByte s.asm = some b := by rw [ha, packetByte_holding, ← hpacket]; simp
    have hlast : packetLast s.asm = false := by rw [ha]; exact packetLast_of_not_last hidx
    refine run_traceApop hp hemit hb ?_
    rw [hlast, ha, asmAdvance_holding hidx, List.map_cons, List.cons_append, ← State.addTxs_addTx]
    refine ih (pre := pre ++ [b]) ?_ ?_ rfl rfl ?_
    · rw [← hpacket, List.append_cons pre b mid]
    · rw [List.length_append]; rfl
    · rw [List.length_append, List.length_singleton]
      rw [List.length_cons] at hlen
      omega

end AsmRun

/-- Settles O22: the command is loaded and built, then its packet is popped from the first byte to the last. -/
theorem asmRealizesBuildPacket : Obligations.AsmRealizesBuildPacket := by
  intro s c rest hpos hlen hasm hp
  have hne : c ≠ [] := List.ne_nil_of_length_pos hpos
  have hpops : (buildPacket c).dropLast.length + 1 = c.length + 2 := by
    rw [List.length_dropLast, buildPacket_length]
    rfl
  rw [List.append_assoc, ← hpops] at hp
  have hload := run_traceCmd (buf := []) hne (by rwa [List.length_nil, Nat.zero_add]) (hasm.trans holding_reset.symm) hp
  have hrun := run_add hload (run_replicate_traceApop (pre := [])
    (mid := (buildPacket c).dropLast) (buildPacket_dropLast_concat hne) rfl rfl)
  have hsteps : c.length + (c.length + 2) = 2 * c.length + 2 := by omega
  rw [hpops, hsteps, ← hasm, State.addTxs_concat] at hrun
  exact hrun

end Sys2Proof.Machine
end

section
/-! SUPPORT. Proofs of the statements about the response of a command (42_response_contract.md): a slot's value is the number of
its bytes, laying values out and reading them back are inverse to each other, and the checks of a response are made in order. -/

namespace Sys2Proof.Machine

/-! ### The bytes of a slot -/

section SlotValues

variable {s : Slot} {v : Int} {bs : List Byte}

theorem bigEndian_nil : bigEndian [] = 0 := rfl

/-- One more byte is a less significant one (R63). -/
theorem bigEndian_concat (bs : List Byte) (b : Byte) : bigEndian (bs ++ [b]) = bigEndian bs * 256 + b.toNat :=
  List.foldl_concat ..

theorem bigEndian_one (a : Byte) : bigEndian [a] = a.toNat := by
  rw [← List.nil_append [a], bigEndian_concat, bigEndian_nil, Nat.zero_mul, Nat.zero_add]

theorem bigEndian_two (a b : Byte) : bigEndian [a, b] = a.toNat * 256 + b.toNat :=
  (bigEndian_concat [a] b).trans (by rw [bigEndian_one])

theorem bigEndian_four (a b c d : Byte) :
    bigEndian [a, b, c, d] = a.toNat * 256 ^ 3 + b.toNat * 256 ^ 2 + c.toNat * 256 + d.toNat := by
  have h : bigEndian [a, b, c, d] = ((a.toNat * 256 + b.toNat) * 256 + c.toNat) * 256 + d.toNat := by
    rw [← bigEndian_two, ← bigEndian_concat, ← bigEndian_concat]
    rfl
  rw [h]
  omega

/-- The value of a slot in terms of the number that its bytes make up (R154). -/
theorem slotValue_of_bigEndian {n : Int} (h : (bigEndian bs : Int) = n) :
    slotValue s bs = if s.signed = true ∧ 2 ^ (8 * slotBytes s - 1) ≤ n then n - 2 ^ (8 * slotBytes s) else n := by
  subst h
  exact if_congr (and_congr_right fun _ => by exact_mod_cast Iff.rfl) rfl rfl

theorem slotLayout_length (s : Slot) (v : Int) : (slotLayout s v).length = slotBytes s := by
  obtain ⟨signed, size⟩ := s
  cases size <;> rfl

/-- A byte made of an integer holds it modulo 256. -/
theorem byte_ofInt_toNat (v : Int) : ((BitVec.ofInt 8 v).toNat : Int) = v % 256 := by
  rw [BitVec.toNat_ofInt]
  omega

/-- A layout holds its value modulo the range of the slot (R154). -/
theorem bigEndian_slotLayout (s : Slot) (v : Int) : (bigEndian (slotLayout s v) : Int) = v % 2 ^ (8 * slotBytes s) := by
  obtain ⟨signed, size⟩ := s
  cases size with
  | one => rw [slotLayout, bigEndian_one, byte_ofInt_toNat]; rfl
  | two =>
    rw [slotLayout, bigEndian_two, slotBytes]
    push_cast [byte_ofInt_toNat]
    omega
  | four =>
    rw [slotLayout, bigEndian_four, slotBytes]
    push_cast [byte_ofInt_toNat]
    omega

theorem slotBits_ne_zero (s : Slot) : 8 * slotBytes s ≠ 0 := by
  obtain ⟨signed, size⟩ := s
  cases size <;> exact Nat.succ_ne_zero _

/-- Two's complement reads a value of its range back from the residue, modulo twice the bound (R154). -/
theorem twosComplement_emod {m : Int} (hlo : -m ≤ v) (hhi : v < m) :
    (if m ≤ v % (2 * m) then v % (2 * m) - 2 * m else v % (2 * m)) = v := by
  by_cases hneg : v < 0
  · have hmod : v % (2 * m) = v + 2 * m := by
      rw [← Int.add_emod_right]
      exact Int.emod_eq_of_lt (by omega) (by omega)
    rw [hmod, if_pos (by omega), Int.add_sub_cancel]
  · have hmod : v % (2 * m) = v := Int.emod_eq_of_lt (by omega) (by omega)
    rw [hmod, if_neg (by omega)]

/-- A value that fits its slot is read back from its layout (R154). -/
theorem slotValue_slotLayout (h : slotHolds s v) : slotValue s (slotLayout s v) = v := by
  rw [slotValue_of_bigEndian (bigEndian_slotLayout s v)]
  by_cases hsigned : s.signed = true
  · obtain ⟨hlo, hhi⟩ := (if_pos hsigned).mp h
    have hpow : (2 : Int) ^ (8 * slotBytes s) = 2 * 2 ^ (8 * slotBytes s - 1) :=
      (mul_pow_sub_one (slotBits_ne_zero s) 2).symm
    simp only [hsigned, true_and, hpow]
    exact twosComplement_emod hlo hhi
  · obtain ⟨hlo, hhi⟩ := (if_neg hsigned).mp h
    rw [if_neg fun hs => hsigned hs.1, Int.emod_eq_of_lt hlo hhi]

end SlotValues

/-! ### The fields of a response -/

section Fields

variable {fields : List (Slot × Int)}

theorem fieldsLayout_length : (fieldsLayout fields).length = descSize (fields.map Prod.fst) := by
  induction fields with
  | nil => rfl
  | cons f fields ih =>
    obtain ⟨s, v⟩ := f
    rw [fieldsLayout, List.length_append, slotLayout_length, ih]
    rfl

/-- The first slot takes the bytes laid out in it, and leaves the rest to the others (R154). -/
theorem decodeFields_cons_append (s : Slot) (desc : List Slot) {bs : List Byte} (h : bs.length = slotBytes s)
    (more : List Byte) : decodeFields (s :: desc) (bs ++ more) = slotValue s bs :: decodeFields desc more := by
  rw [decodeFields, List.take_left' h, List.drop_left' h]

theorem decodeFields_fieldsLayout_append (h : ∀ f ∈ fields, slotHolds f.1 f.2) (more : List Byte) :
    decodeFields (fields.map Prod.fst) (fieldsLayout fields ++ more) = fields.map Prod.snd := by
  induction fields with
  | nil => rfl
  | cons f fields ih =>
    obtain ⟨s, v⟩ := f
    obtain ⟨hfirst, hrest⟩ := List.forall_mem_cons.1 h
    rw [List.map_cons, fieldsLayout, List.append_assoc, decodeFields_cons_append s _ (slotLayout_length s v),
      slotValue_slotLayout hfirst, ih hrest, List.map_cons]

end Fields

/-! ### The checks of a response -/

section Response

variable {desc : List Slot}

/-- The short read comes first (R152, R157). -/
theorem checkResponse_of_short {bytes : List Byte} (h : bytes.length < expectedLen desc) :
    checkResponse bytes desc = .error .lengthError := if_pos h

/-- What is read of a response that is not short: its checksum, its echo, its declared length and its fields (R157). -/
theorem take_expectedLen (desc : List Slot) (a b echo len : Byte) (rest : List Byte) :
    (a :: b :: echo :: len :: rest).take (expectedLen desc) = a :: b :: echo :: len :: rest.take (descSize desc) := by
  rw [expectedLen, Nat.add_comm]
  rfl

/-- A response that is not short: the checksum, then the declared length, then the fields (R157). -/
theorem checkResponse_of_long (a b echo len : Byte) {rest : List Byte} (h : descSize desc ≤ rest.length) :
    checkResponse (a :: b :: echo :: len :: rest) desc =
      if cksum16 (echo :: len :: rest.take (descSize desc)) = fromBe16 a b then
        if len.toNat = descSize desc then .ok (decodeFields desc (rest.take (descSize desc))) else .error .lengthError
      else .error .integrityError := by
  have hlong : ¬ (a :: b :: echo :: len :: rest).length < expectedLen desc := by
    simp only [List.length_cons, expectedLen]
    omega
  rw [checkResponse, if_neg hlong, take_expectedLen, verify_cons_cons, expectedLen, Nat.add_sub_cancel_left]
  by_cases hsum : cksum16 (echo :: len :: rest.take (descSize desc)) = fromBe16 a b
  · rw [if_pos hsum, if_pos hsum]
    rfl
  · rw [if_neg hsum, if_neg hsum]

/-- A response that is not short has its four bytes before the fields, and its fields (R151). -/
theorem exists_of_expectedLen_le : ∀ {bytes : List Byte}, expectedLen desc ≤ bytes.length →
    ∃ a b echo len rest, bytes = a :: b :: echo :: len :: rest ∧ descSize desc ≤ rest.length
  | a :: b :: echo :: len :: rest, h => ⟨a, b, echo, len, rest, rfl, by
      simp only [List.length_cons, expectedLen] at h
      omega⟩
  | [], h | [_], h | [_, _], h | [_, _, _], h => absurd h (by
      simp only [List.length_cons, List.length_nil, expectedLen]
      omega)

/-- A packet built over the fields of a descriptor passes every check (R157). -/
theorem checkResponse_buildPacket (echo : Byte) {fields : List Byte} (more : List Byte)
    (hsize : fields.length = descSize desc) (hlen : fields.length ≤ 255) :
    checkResponse (buildPacket (echo :: BitVec.ofNat 8 fields.length :: fields) ++ more) desc =
      .ok (decodeFields desc fields) := by
  have hlong : descSize desc ≤ (fields ++ more).length := by rw [List.length_append]; omega
  have hdeclared : (BitVec.ofNat 8 fields.length).toNat = descSize desc := by rw [BitVec.toNat_ofNat]; omega
  refine (checkResponse_of_long _ _ echo _ hlong).trans ?_
  rw [List.take_left' hsize, if_pos (fromBe16_hi_lo _).symm, if_pos hdeclared]

end Response

/-- Settles O57: a response that is not short is its four leading bytes and the rest, of which the checks speak in order. -/
theorem responseChecksInOrder : Obligations.ResponseChecksInOrder := by
  intro bytes desc n
  by_cases hshort : bytes.length < n
  case pos =>
    have hnot : ¬ n ≤ bytes.length := Nat.not_le.2 hshort
    exact ⟨fun _ => checkResponse_of_short hshort, fun h => absurd h hnot, fun h => absurd h hnot, fun h => absurd h hnot⟩
  case neg =>
    obtain ⟨a, b, echo, len, rest, rfl, hlong⟩ := exists_of_expectedLen_le (Nat.not_lt.1 hshort)
    have hn : n - 4 = descSize desc := Nat.add_sub_cancel_left ..
    rw [checkResponse_of_long a b echo len hlong, take_expectedLen, hn]
    refine ⟨fun h => absurd h hshort, fun _ hsum => if_neg hsum, fun _ hsum hdecl => ?declared, fun _ hsum hdecl => ?decoded⟩
    case declared => exact (if_pos hsum).trans (if_neg hdecl)
    case decoded => exact (if_pos hsum).trans (if_pos hdecl)

/-- Settles O58: slot by slot, then a packet over the bytes of all slots. -/
theorem wellBuiltResponseDecodes : Obligations.WellBuiltResponseDecodes := by
  refine ⟨fun signed a b c d => ?slots, fun s v h => ⟨slotLayout_length s v, slotValue_slotLayout h⟩,
    fun _ more h => decodeFields_fieldsLayout_append h more,
    fun _ echo _ more hsize hlen => checkResponse_buildPacket echo more hsize hlen, fun fields echo more h hlen => ?values⟩
  case slots =>
    refine ⟨slotValue_of_bigEndian ?_, slotValue_of_bigEndian ?_, slotValue_of_bigEndian ?_⟩
    · exact congrArg _ (bigEndian_one a)
    · exact_mod_cast bigEndian_two a b
    · exact_mod_cast bigEndian_four a b c d
  case values =>
    have hdecode := decodeFields_fieldsLayout_append h []
    rw [List.append_nil] at hdecode
    rw [← fieldsLayout_length] at hlen ⊢
    rw [checkResponse_buildPacket echo more fieldsLayout_length hlen, hdecode]

end Sys2Proof.Machine
end

section
/-! SUPPORT. Proofs of the statements about escaping, samples, channel ids and payload lengths (43_escape_and_sample.md): what
`escape` gives byte by byte, that `unescape` undoes it, and the numbers that samples, ids and lengths stand for. -/

namespace Sys2Proof.Machine

/-! ### The encoder, byte by byte -/

section Escape

variable {b : Byte} (s : List Byte)

@[simp] theorem escape_nil : escape [] = [] := rfl
@[simp] theorem escape_delim : escape (0x7E#8 :: s) = 0x7D#8 :: 0x5E#8 :: escape s := rfl
@[simp] theorem escape_marker : escape (0x7D#8 :: s) = 0x7D#8 :: 0x5D#8 :: escape s := rfl
theorem escape_literal (hd : b ≠ 0x7E#8) (hm : b ≠ 0x7D#8) : escape (b :: s) = b :: escape s := by
  simp [escape, esc1, hd, hm]

/-- Induction along the three ways `escape` treats a byte: the delimiter, the marker and every other byte (R165). -/
theorem escape_induction {P : List Byte → Prop} (nil : P [])
    (delim : ∀ s, P s → P (0x7E#8 :: s)) (marker : ∀ s, P s → P (0x7D#8 :: s))
    (literal : ∀ b s, b ≠ 0x7E#8 → b ≠ 0x7D#8 → P s → P (b :: s)) : P s := by
  induction s with
  | nil => exact nil
  | cons b s ih =>
    by_cases hd : b = 0x7E#8
    · exact hd ▸ delim s ih
    · by_cases hm : b = 0x7D#8
      · exact hm ▸ marker s ih
      · exact literal b s hd hm ih

/-- The clauses of R165 in the order it tests them. -/
theorem escape_cons (b : Byte) : escape (b :: s) =
    (if b = 0x7E#8 then [0x7D#8, 0x5E#8] else if b = 0x7D#8 then [0x7D#8, 0x5D#8] else [b]) ++ escape s := by
  split
  case isTrue hd => subst hd; rfl
  case isFalse hd =>
    split
    case isTrue hm => subst hm; rfl
    case isFalse hm => exact escape_literal s hd hm

theorem delim_notMem_escape : 0x7E#8 ∉ escape s := by
  induction s using escape_induction with
  | nil => exact List.not_mem_nil
  | delim s ih | marker s ih => simpa using ih
  | literal b s hd hm ih => simpa [escape_literal s hd hm, hd.symm] using ih

/-- An escaped byte takes one more place, every other byte takes its own. -/
theorem escape_length : (escape s).length = s.length + s.countP fun b => b = 0x7E#8 ∨ b = 0x7D#8 := by
  induction s using escape_induction with
  | nil => rfl
  | delim s ih | marker s ih => simp [ih]; omega
  | literal b s hd hm ih => simp [escape_literal s hd hm, hd, hm, ih]; omega

/-! The states of the decoder along a raw sequence (R167). -/

theorem endsPending_pair (f : Byte) (r : List Byte) : endsPending false (0x7D#8 :: f :: r) = endsPending false r := rfl
theorem endsPending_literal (h : b ≠ 0x7D#8) (r : List Byte) : endsPending false (b :: r) = endsPending false r := by
  rw [endsPending, beq_false_of_ne h]
  rfl

theorem endsPending_escape : endsPending false (escape s) = false := by
  induction s using escape_induction with
  | nil => rfl
  | delim s ih | marker s ih => exact (endsPending_pair _ _).trans ih
  | literal b s hd hm ih => rw [escape_literal s hd hm, endsPending_literal hm, ih]

/-- Every marker of a raw sequence has one of the two conforming followers (R165, R166). -/
def MarkersPaired (r : List Byte) : Prop :=
  ∀ i : Nat, r[i]? = some 0x7D#8 → r[i + 1]? = some 0x5E#8 ∨ r[i + 1]? = some 0x5D#8

theorem markersPaired_literal {r : List Byte} (h : b ≠ 0x7D#8) (hr : MarkersPaired r) : MarkersPaired (b :: r)
  | 0, hi => absurd (Option.some.inj hi) h
  | i + 1, hi => hr i hi

theorem markersPaired_pair {f : Byte} {r : List Byte} (hf : f = 0x5E#8 ∨ f = 0x5D#8) (hr : MarkersPaired r) :
    MarkersPaired (0x7D#8 :: f :: r)
  | 0, _ => hf.imp (congrArg some) (congrArg some)
  | i + 1, hi =>
    have hne : f ≠ 0x7D#8 := by rintro rfl; exact absurd hf (by decide)
    markersPaired_literal hne hr i hi

theorem markersPaired_escape : MarkersPaired (escape s) := by
  induction s using escape_induction with
  | nil => exact nofun
  | delim s ih => exact markersPaired_pair (.inl rfl) ih
  | marker s ih => exact markersPaired_pair (.inr rfl) ih
  | literal b s hd hm ih => rw [escape_literal s hd hm]; exact markersPaired_literal hm ih

/-- Settles O50: each property of the output is one induction along the encoder. -/
theorem escapeOutputIsFramable : Obligations.EscapeOutputIsFramable := by
  refine ⟨rfl, fun b s => escape_cons s b, fun s =>
    ⟨delim_notMem_escape s, ?atLeast, ?atMost, endsPending_escape s, markersPaired_escape s⟩⟩
  case atLeast =>
    rw [escape_length]
    exact Nat.le_add_right ..
  case atMost =>
    rw [escape_length, Nat.two_mul]
    exact Nat.add_le_add_left List.countP_le_length _

/-! ### The decoder on the encoder's output -/

/-- The marker and its follower are recovered as the byte they stand for; every other byte is its own (R168). -/
theorem unescapeFrom_escape : unescapeFrom false (escape s) = s := by
  induction s using escape_induction with
  | nil => rfl
  | delim s ih => rw [escape_delim, unescapeFrom_marker, unescapeFrom_pending, ih]; rfl
  | marker s ih => rw [escape_marker, unescapeFrom_marker, unescapeFrom_pending, ih]; rfl
  | literal b s hd hm ih => rw [escape_literal s hd hm, unescapeFrom_literal hm, ih]

/-- Settles O52: a bare delimiter is no output of `escape`, and is not restored. -/
theorem escapeRoundTrip : Obligations.EscapeRoundTrip :=
  ⟨unescapeFrom_escape, ⟨[0x7E#8], by decide⟩, fun r h => ⟨unescape r, h.symm⟩⟩

theorem unesc1_unesc1 (f : Byte) : unesc1 (unesc1 f) = f := by
  rw [unesc1_eq, unesc1_eq, BitVec.xor_assoc, BitVec.xor_self, BitVec.xor_zero]

/-- XOR clears a set bit 5 and OR leaves it set (D7). -/
theorem unesc1Of_xor_ne_or {f : Byte} (h : f.getLsbD 5 = true) : unesc1Of .xor f ≠ unesc1Of .or f := by
  have hxor : (unesc1Of .xor f).getLsbD 5 = false := by simp [unesc1Of, h]
  have hor : (unesc1Of .or f).getLsbD 5 = true := by simp [unesc1Of]
  intro heq
  rw [heq, hor] at hxor
  exact absurd hxor (by decide)

/-- Settles O51: flipping a bit twice restores it, and both conforming followers have bit 5 clear. -/
theorem followerIsRecovered : Obligations.FollowerIsRecovered := by
  refine ⟨fun f => ⟨unesc1_eq f, unesc1_unesc1 f⟩, rfl, rfl, rfl, rfl, rfl, rfl, rfl, fun op => ?conforming,
    fun _ => unesc1Of_xor_ne_or⟩
  cases op with
  | xor | or => exact ⟨rfl, rfl⟩

end Escape

/-! ### Samples -/

/-- The value of a sample from the numbers of its two bytes (R169). -/
theorem sdec16_eq (hi lo : Byte) :
    let v : Int := hi.toNat * 256 + lo.toNat
    sdec16 hi lo = if v < 32768 then v else v - 65536 := by
  simp only [sdec16, fromBe16_toNat]
  push_cast
  exact if_congr (by omega) rfl rfl

/-- A sample is the signed reading of its byte pair (R169). -/
theorem sdec16_eq_toInt (hi lo : Byte) : sdec16 hi lo = (fromBe16 hi lo).toInt := by
  rw [sdec16, BitVec.toInt_eq_toNat_cond]
  exact if_congr (by omega) rfl rfl

/-- Settles O53: the range is that of a 16-bit word read as signed. -/
theorem samplesAreSigned : Obligations.SamplesAreSigned := by
  refine ⟨fun hi lo => ⟨sdec16_eq hi lo, sdec16_eq_toInt hi lo, ?low, ?high⟩, by decide⟩
  case low =>
    rw [sdec16_eq_toInt]
    exact BitVec.le_toInt _
  case high =>
    rw [sdec16_eq_toInt]
    exact Int.le_sub_one_of_lt BitVec.toInt_lt

/-- The sample of a position is that of its own two bytes (R170). -/
theorem samplesOf_getElem? : ∀ (pay : List Byte) (k : Nat), k < pay.length / 2 →
    (samplesOf pay)[k]? = some (sdec16 (pay.getD (2 * k) 0) (pay.getD (2 * k + 1) 0))
  | [], _, hk | [_], _, hk => absurd hk (by simp)
  | hi :: lo :: rest, 0, _ => rfl
  | hi :: lo :: rest, k + 1, hk => by
    have hrest : k < rest.length / 2 := by
      rw [List.length_cons, List.length_cons] at hk
      omega
    exact samplesOf_getElem? rest k hrest

/-- Settles O54: the number of samples and each sample by its position, both along the pairs of the payload. -/
theorem samplesPairThePayload : Obligations.SamplesPairThePayload :=
  fun pay => ⟨samplesOf_length pay, samplesOf_getElem? pay⟩

/-! ### Channel ids, payload lengths and queue entries -/

theorem chanId_eq (w : Byte) : chanId w = (w.toNat : Int) - 1 := rfl

theorem chanId_range (w : Byte) : -1 ≤ chanId w ∧ chanId w ≤ 254 := by
  have hw := w.isLt
  rw [chanId_eq]
  omega

/-- A sample is not wrapped by the 16 bits of its DATAQ entry (R90). -/
theorem dataWord_toInt {x : Int} (hlo : -32768 ≤ x) (hhi : x ≤ 32767) : (dataWord x).toInt = x :=
  BitVec.toInt_ofInt_eq_self (by decide) hlo (Int.lt_of_le_sub_one hhi)

/-- Settles O55: the cut at length byte 4 is that of the subtraction of natural numbers. -/
theorem channelAndLengthRanges : Obligations.ChannelAndLengthRanges := by
  refine ⟨fun w => ?channel, fun hdr => ⟨ptarget_le hdr, rfl, fun hlow => ?underflow, fun hlen => ?length⟩,
    fun _ => dataWord_toInt, by decide⟩
  case channel =>
    obtain ⟨hlo, hhi⟩ := chanId_range w
    exact ⟨chanId_eq w, hlo, hhi, chanWord_chanId_toInt w⟩
  case underflow => exact Nat.sub_eq_zero_of_le (Nat.le_of_lt hlow)
  case length => exact Nat.sub_add_cancel hlen

/-! ### The stream checksum as a packet's -/

/-- `verify` gives back what follows the first two bytes exactly when they are its checksum (R116). -/
theorem verify_cons_cons_eq_ok_iff (a b : Byte) (payload : List Byte) :
    verify (a :: b :: payload) = .ok payload ↔ cksum16 payload = fromBe16 a b := by
  rw [verify_cons_cons]
  split
  case isTrue h => exact iff_of_true rfl h
  case isFalse h => exact iff_of_false nofun h

theorem streamCksOk_cons_cons_iff (a b : Byte) (hdr pay : List Byte) :
    streamCksOk (a :: b :: hdr) pay = true ↔ cksum16 (hdr ++ pay) = fromBe16 a b := beq_iff_eq

/-- Settles O17: both compare the checksum of what follows with the first two header bytes. -/
theorem streamChecksumIsVerify : Obligations.StreamChecksumIsVerify := by
  intro hdr pay hlen
  match hdr, hlen with
  | a :: b :: hdr, _ => exact (streamCksOk_cons_cons_iff a b hdr pay).trans (verify_cons_cons_eq_ok_iff a b (hdr ++ pay)).symm

end Sys2Proof.Machine
end

section
/-! SUPPORT. Proofs of the statements about the frame decoder (44_frame_decoder.md): what a word selects in each state of FD and
what its operations do, that no step stops, that every frame ends, and that a whole frame delivers what it carries. -/

namespace Sys2Proof.Machine

/-! ### What an FD word selects and what its operation does -/

section FdOperations

variable {i : Instr} {s t : State} {b v : Byte}

theorem decode_fdByte (st : FdState) (b : Byte) : decode st (.fdEv (fdWord false true b)) = decodeByte st b :=
  decodeFd_fdWord st false true b
theorem decode_fdPoll (st : FdState) (b : Byte) : decode st (.fdEv (fdWord false false b)) = decodeNone st :=
  decodeFd_fdWord st false false b
theorem decode_fdAbort (st : FdState) (valid : Bool) (b : Byte) : decode st (.fdEv (fdWord true valid b)) = .fdAbort :=
  decodeFd_fdWord st true valid b

theorem unitOf_decodeByte (st : FdState) (b : Byte) : unitOf (decodeByte st b) = .fd := by
  cases st with
  | hunt | hdr | pay => simp only [decodeByte]; split <;> rfl
  | hdrEsc | stop0 | stop1 | payEsc => rfl

/-! In HUNT, HDR and PAY one reserved value has its own operation; every other byte is stray or literal (R94). -/

theorem decodeByte_hunt_of_ne (h : b ≠ 0x7E#8) : decodeByte .hunt b = .fdHuntStray b := if_neg h
theorem decodeByte_hdr_of_ne (h : b ≠ 0x7D#8) : decodeByte .hdr b = .fdHdrLit b := if_neg h
theorem decodeByte_pay_of_ne (h : b ≠ 0x7D#8) : decodeByte .pay b = .fdPayLit b := if_neg h

/-- A poll without a byte reports code 0 in every state (R187, R190). -/
theorem exec_decodeNone (st : FdState) (s : State) : exec (decodeNone st) s = .next (s.addRes 0x000#12) := by
  cases st <;> rfl

theorem exec_fdHuntStray (b : Byte) (s : State) :
    exec (.fdHuntStray b) s = .next ((s.addData [BitVec.ofNat 16 b.toNat]).addRes 0x801#12) := by
  rw [BitVec.ofNat_toNat]
  rfl

theorem exec_fdStop1Any (b : Byte) (s : State) :
    exec (.fdStop1Any b) s = .next (clearFrame ((s.addChan (chanWord (chanId b))).addRes 0xC00#12)) := rfl

/-- A received byte presented first is the event a step runs (R12, R86). -/
theorem step_traceRx {rest : List Ports} (hp : s.env.pending = traceRx b :: rest) :
    step s = exec (decodeByte s.fd.state b) (s.setPending rest) := by
  rw [step_portsOf hp, decode_fdByte]

/-- A step that runs a received byte, then a run. -/
theorem run_traceRx {k : Nat} {u : State} {rest : List Ports} (hp : s.env.pending = traceRx b :: rest)
    (h : exec (decodeByte s.fd.state b) (s.setPending rest) = .next t) (h' : RunsTo k t u) : RunsTo (k + 1) s u :=
  run_succ ((step_traceRx hp).trans h) h'

end FdOperations

/-- Settles O23: the operations listed are those that a poll without a byte selects. -/
theorem fdPollWithoutByteReportsIdle : Obligations.FdPollWithoutByteReportsIdle := by
  intro st i hmem
  have hi : decodeNone st = i := by cases st <;> simpa [decodeNone, eq_comm] using hmem
  subst hi
  exact ⟨decode_fdPoll st, exec_decodeNone st⟩

/-- Settles O24, by induction on the number of polls. -/
theorem idlePollsOnlyReport : Obligations.IdlePollsOnlyReport := by
  intro n
  induction n with
  | zero =>
    intro s rest hp
    obtain rfl : s.env.pending = rest := hp
    simpa using run_zero s
  | succ n ih =>
    intro s rest hp
    refine run_portsOf hp (by rw [decode_fdPoll]; exact exec_decodeNone _ _) ?_
    simpa [List.replicate_succ] using ih (State.addRes (s.setPending (List.replicate n traceRxn ++ rest)) 0x000#12) rest rfl

/-- Settles O25. -/
theorem fdDelimiterEntersTheHeader : Obligations.FdDelimiterEntersTheHeader :=
  ⟨decode_fdByte .hunt 0x7E, fun _ => rfl⟩

/-- Settles O26. -/
theorem fdStrayByteIsReported : Obligations.FdStrayByteIsReported :=
  ⟨fun b hb => (decode_fdByte .hunt b).trans (decodeByte_hunt_of_ne hb), fun s b => exec_fdHuntStray b s⟩

/-- Settles O27. -/
theorem fdEscapeMarkerIsPending : Obligations.FdEscapeMarkerIsPending :=
  ⟨decode_fdByte .hdr 0x7D, decode_fdByte .pay 0x7D, fun _ => rfl, fun _ => rfl⟩

/-- Settles O30. -/
theorem fdFirstTailByteIsDiscarded : Obligations.FdFirstTailByteIsDiscarded :=
  ⟨decode_fdByte .stop0, fun _ _ => rfl⟩

/-- Settles O31. -/
theorem fdSecondTailByteEndsTheStopFrame : Obligations.FdSecondTailByteEndsTheStopFrame :=
  ⟨decode_fdByte .stop1, fun s b => exec_fdStop1Any b s⟩

/-- Settles O32. -/
theorem fdAbortClearsTheFrame : Obligations.FdAbortClearsTheFrame :=
  ⟨decode_fdAbort, fun _ => rfl⟩

/-! ### A stored byte and a delivered frame -/

/-- `s` after the frame of `hdr` and `pay` has been delivered and FD cleared (R183, R184). -/
def State.delivered (s : State) (hdr pay : List Byte) : State :=
  (((s.addData ((samplesOf pay).map dataWord)).addChan (chanWord (chanId (hdrByte hdr 4)))).addRes
    (resWord (frameRecord hdr pay))).setFd Fd.reset

section StoredByte

variable {i : Instr} {s t : State} {b v : Byte}

theorem clearFrame_deliverFrame (s : State) : clearFrame (deliverFrame s) = s.delivered s.fd.hdr s.fd.pay := rfl

/-! What FD holds is replaced as a whole, by the next frame's bytes or by those of reset. -/

@[simp] theorem State.setFd_setFd (f g : Fd) : (s.setFd f).setFd g = s.setFd g := rfl
@[simp] theorem State.setFd_delivered (f : Fd) (hdr pay : List Byte) :
    (s.setFd f).delivered hdr pay = s.delivered hdr pay := rfl

/-- A frame without payload delivers no sample. -/
theorem delivered_nil (s : State) (hdr : List Byte) : s.delivered hdr [] =
    ((s.addChan (chanWord (chanId (hdrByte hdr 4)))).addRes (resWord (frameRecord hdr []))).setFd Fd.reset := by
  simp [State.delivered, State.addData]

/-- `push_hdr` where the header has room and no payload is in (R181). -/
theorem pushHdr_of_room {hdr : List Byte} (hh : s.fd.hdr = hdr) (hl : hdr.length ≤ 7) (hp : s.fd.pay = []) :
    pushHdr v s = .next (
      if isStop (hdr ++ [v]) = true then s.setFd { state := .stop0, hdr := hdr ++ [v], pay := [] }
      else if hdr.length = 7 then
        if ptarget (hdr ++ [v]) = 0 then s.delivered (hdr ++ [v]) []
        else s.setFd { state := .pay, hdr := hdr ++ [v], pay := [] }
      else s.setFd { state := .hdr, hdr := hdr ++ [v], pay := [] }) := by
  subst hh
  have hstore (st : FdState) :
      (storeHdr v s).setFdState st = s.setFd { state := st, hdr := s.fd.hdr ++ [v], pay := [] } := by
    simp [storeHdr, State.setFdState, State.setFd, hp]
  rw [pushHdr_eq, if_pos hl]
  split_ifs with hs h7 ht
  · rw [hstore]
  · rw [completeFrame_of (by simp [storeHdr, h7]) (by simp [storeHdr, hp, ht]), clearFrame_deliverFrame]
    simp only [storeHdr, State.setFd_fd, hp]
    rfl
  · rw [hstore]
  · rw [hstore]

/-- `push_pay` where the payload has room (R182). -/
theorem pushPay_of_room (h8 : s.fd.hdr.length = 8) (hp : s.fd.pay.length < ptarget s.fd.hdr) : pushPay v s = .next (
    if s.fd.pay.length + 1 = ptarget s.fd.hdr then s.delivered s.fd.hdr (s.fd.pay ++ [v])
    else s.setFd { state := .pay, hdr := s.fd.hdr, pay := s.fd.pay ++ [v] }) := by
  rw [pushPay_eq, if_pos ⟨h8, hp⟩]
  split_ifs with ht
  · rw [completeFrame_of (s := storePay v s) h8 (by simpa [storePay] using ht), clearFrame_deliverFrame]
    rfl
  · rfl

theorem toNat_mul_eq_ite (f : Bool) (k : Nat) : f.toNat * k = if f = true then k else 0 := by
  cases f <;> simp

/-- The record of a completed frame as its fields are computed in R183 and R89. -/
theorem resWord_frameRecord (hdr pay : List Byte) : resWord (frameRecord hdr pay) = BitVec.ofNat 12 (1024
    + (if cksum16 (hdr.drop 2 ++ pay) = fromBe16 (hdrByte hdr 0) (hdrByte hdr 1) then 512 else 0)
    + (if ptarget hdr % 2 = 1 then 256 else 0) + (if (hdrByte hdr 3).toNat < 4 then 128 else 0) + ptarget hdr / 2) := by
  simp [resWord, frameRecord, toNat_mul_eq_ite, resCodeBits, streamCksOk, oddLenFlag, lenUfFlag]

end StoredByte

/-- Settles O28: the cases of `push_hdr`, with the payload length told by the length byte. -/
theorem fdHeaderByteIsStored : Obligations.FdHeaderByteIsStored := by
  refine ⟨fun b hb => (decode_fdByte .hdr b).trans (decodeByte_hdr_of_ne hb), decode_fdByte .hdrEsc,
    fun s i b v hi hl hp => ?_⟩
  have hexec : exec i s = pushHdr v s := by obtain ⟨rfl, rfl⟩ | ⟨rfl, rfl⟩ := hi <;> rfl
  have hlen : (s.fd.hdr ++ [v]).length = s.fd.hdr.length + 1 := List.length_append
  have htarget : ptarget (s.fd.hdr ++ [v]) = ((s.fd.hdr ++ [v]).getD 3 0).toNat - 4 := ptarget_eq _
  dsimp only
  rw [hexec, pushHdr_of_room (hdr := s.fd.hdr) rfl hl hp]
  by_cases hstop : (s.fd.hdr ++ [v]).length = 3 ∧ (s.fd.hdr ++ [v]).getD 2 0 = 80#8
  case pos =>
    rw [if_pos ((isStop_iff _).2 hstop), if_pos hstop]
    rfl
  case neg =>
    rw [if_neg (mt (isStop_iff _).1 hstop), if_neg hstop]
    by_cases h7 : s.fd.hdr.length = 7
    case neg =>
      rw [if_neg h7, if_neg (by omega), if_neg (by omega)]
      rfl
    case pos =>
      by_cases ht : ptarget (s.fd.hdr ++ [v]) = 0
      case neg =>
        rw [if_pos h7, if_neg ht, if_pos (by omega)]
        rfl
      case pos =>
        rw [if_pos h7, if_pos ht, if_neg (by omega), if_pos (by omega), delivered_nil, resWord_frameRecord, ht,
          List.append_nil]
        rfl

/-- Settles O29: the cases of `push_pay`; a payload that is complete had a length byte of at least 4. -/
theorem fdPayloadByteIsStored : Obligations.FdPayloadByteIsStored := by
  refine ⟨fun b hb => (decode_fdByte .pay b).trans (decodeByte_pay_of_ne hb), decode_fdByte .payEsc,
    fun s i b v hi h8 hlt => ?_⟩
  have hexec : exec i s = pushPay v s := by obtain ⟨rfl, rfl⟩ | ⟨rfl, rfl⟩ := hi <;> rfl
  have hlen : (s.fd.pay ++ [v]).length = s.fd.pay.length + 1 := List.length_append
  have htarget : ptarget s.fd.hdr = (s.fd.hdr.getD 3 0).toNat - 4 := ptarget_eq _
  dsimp only
  rw [hexec, pushPay_of_room h8 hlt]
  by_cases hlast : (s.fd.pay ++ [v]).length + 4 = (s.fd.hdr.getD 3 0).toNat
  case neg =>
    rw [if_neg (by omega), if_neg hlast]
    rfl
  case pos =>
    have hfull : ptarget s.fd.hdr = (s.fd.pay ++ [v]).length := by omega
    have huf : ¬ (hdrByte s.fd.hdr 3).toNat < 4 := by
      rw [hdrByte, ← hlast]
      omega
    rw [if_pos (by omega), if_pos hlast, State.delivered, resWord_frameRecord, if_neg huf, hfull]
    rfl

/-! ### No step stops -/

section Answers

variable {i : Instr} {s : State}

/-- An operation of FD answers wherever it is selected and FD's invariant holds: its buffers then have room (R40, R181,
R182). -/
theorem exec_answers_of_fd (hu : unitOf i = .fd) (hsel : i.selectedIn s.fd.state = true) (hi : FdInv s.fd) :
    ∃ t, exec i s = .next t := by
  have header (hst : s.fd.state = .hdr ∨ s.fd.state = .hdrEsc) (v : Byte) : ∃ t, pushHdr v s = .next t := by
    obtain ⟨hl, hp, -⟩ := (fdInv_hdr_iff hst).1 hi
    exact pushHdr_answers hl hp
  have payload (hst : s.fd.state = .pay ∨ s.fd.state = .payEsc) (v : Byte) : ∃ t, pushPay v s = .next t := by
    obtain ⟨h8, hp, -⟩ := (fdInv_pay_iff hst).1 hi
    exact pushPay_answers h8 hp
  cases i with
  | fdHdrLit b => exact header (.inl (eq_of_beq hsel)) b
  | fdHdrEscAny b => exact header (.inr (eq_of_beq hsel)) (unesc1 b)
  | fdPayLit b => exact payload (.inl (eq_of_beq hsel)) b
  | fdPayEscAny b => exact payload (.inr (eq_of_beq hsel)) (unesc1 b)
  | fdHuntNone | fdHuntSof | fdHuntStray b | fdHdrNone | fdHdrEsc | fdHdrEscNone | fdStop0None | fdStop0Any b
  | fdStop1None | fdStop1Any b | fdPayNone | fdPayEsc | fdPayEscNone | fdAbort => exact ⟨_, rfl⟩
  | asmPush b | asmPushL b | asmPop | verPush b | verPushL b | cksClear | cksAdd b | reset => cases hu

/-- An operation of ASM answers wherever ASM's invariant holds: while a packet is emitted the index is inside it (R31, R134). -/
theorem exec_answers_of_asm (hu : unitOf i = .asm) (hi : AsmInv s.asm) : ∃ t, exec i s = .next t := by
  cases i with
  | asmPush b =>
    cases hph : s.asm.phase with
    | load => exact ⟨_, exec_asmPush_of_load b hph⟩
    | emit => exact ⟨_, exec_asmPush_of_emit b hph⟩
  | asmPushL b =>
    cases hph : s.asm.phase with
    | load =>
      cases hovf : (asmTake s.asm b).ovf with
      | true => exact ⟨_, exec_asmPushL_of_ovf b hph hovf⟩
      | false => exact ⟨_, exec_asmPushL_of_not_ovf b hph hovf⟩
    | emit => exact ⟨_, exec_asmPushL_of_emit b hph⟩
  | asmPop =>
    cases hph : s.asm.phase with
    | load => exact ⟨_, exec_asmPop_of_load hph⟩
    | emit =>
      obtain ⟨c, hc⟩ := packetByte_isSome (asm_idx_le hi)
      exact ⟨_, exec_asmPop_of_emit hph hc⟩
  | _ => cases hu

/-- A selected operation answers wherever the units' invariants hold (R180). -/
theorem exec_answers (hsel : i.selectedIn s.fd.state = true) (hi : UnitsInv s) : ∃ t, exec i s = .next t := by
  obtain ⟨hfd, hasm, -⟩ := hi
  cases i with
  | fdHuntNone | fdHuntSof | fdHuntStray b | fdHdrNone | fdHdrEsc | fdHdrLit b | fdHdrEscNone | fdHdrEscAny b | fdStop0None
  | fdStop0Any b | fdStop1None | fdStop1Any b | fdPayNone | fdPayEsc | fdPayLit b | fdPayEscNone | fdPayEscAny b | fdAbort =>
    exact exec_answers_of_fd rfl hsel hfd
  | asmPush b | asmPushL b | asmPop => exact exec_answers_of_asm rfl hasm
  | verPush b | verPushL b | cksClear | cksAdd b | reset => exact ⟨_, rfl⟩

end Answers

/-- Settles O39: the step waits, or it runs the operation that the fetched event selects, which answers. -/
theorem stepNeverStops : Obligations.StepNeverStops := by
  intro s hi
  obtain ⟨e, s', hf⟩ : ∃ e s', fetch s = (e, s') := ⟨_, _, rfl⟩
  have hs' : s' = s.setPending s'.env.pending := by simpa [hf] using fetch_state s
  cases e with
  | none => exact ⟨s', by rw [step, hf]⟩
  | some e =>
    have hi' : UnitsInv s' := by rw [hs']; exact hi
    obtain ⟨t, ht⟩ := exec_answers (decode_selectedIn s'.fd.state e) hi'
    exact ⟨t, by rw [step, hf]; exact ht⟩

/-! ### A received byte inside a frame -/

/-- What a received byte does while a frame is in progress: a marker leaves the escape pending, a byte is stored in the header
or the payload, or a tail byte of a stop frame is read (R92, R181 to R201). -/
inductive FrameByteStep (b : Byte) (s : State) : State → Prop where
  | headerMarker (hst : s.fd.state = .hdr) : FrameByteStep b s (s.setFdState .hdrEsc)
  | headerByte {v : Byte} {t : State} (hst : s.fd.state = .hdr ∨ s.fd.state = .hdrEsc) (h : pushHdr v s = .next t) :
      FrameByteStep b s t
  | firstTail (hst : s.fd.state = .stop0) : FrameByteStep b s (s.setFdState .stop1)
  | secondTail (hst : s.fd.state = .stop1) :
      FrameByteStep b s (clearFrame ((s.addChan (chanWord (chanId b))).addRes 0xC00#12))
  | payloadMarker (hst : s.fd.state = .pay) : FrameByteStep b s (s.setFdState .payEsc)
  | payloadByte {v : Byte} {t : State} (hst : s.fd.state = .pay ∨ s.fd.state = .payEsc) (h : pushPay v s = .next t) :
      FrameByteStep b s t

/-- An upper bound on the raw bytes that the frame in progress still takes: two for each byte that the header or the longest
payload can still store, one less where the marker is already in (R215). -/
def bytesLeft (f : Fd) : Nat :=
  match f.state with
  | .hunt => 0
  | .hdr => 2 * (8 - f.hdr.length) + 502
  | .hdrEsc => 2 * (8 - f.hdr.length) + 501
  | .stop0 => 2
  | .stop1 => 1
  | .pay => 2 * (ptarget f.hdr - f.pay.length)
  | .payEsc => 2 * (ptarget f.hdr - f.pay.length) - 1

section FrameByte

variable {s t : State} {b v : Byte} {f : Fd} {rest : List Ports}

/-- Outside HUNT every received byte takes one of these steps. -/
theorem frameByteStep_of_exec (hst : s.fd.state ≠ .hunt) (h : exec (decodeByte s.fd.state b) s = .next t) :
    FrameByteStep b s t := by
  cases hs : s.fd.state with
  | hunt => exact absurd hs hst
  | hdr =>
    rw [hs] at h
    by_cases hb : b = 0x7D#8
    case pos => subst hb; cases h; exact .headerMarker hs
    case neg => rw [decodeByte_hdr_of_ne hb] at h; exact .headerByte (.inl hs) h
  | hdrEsc => rw [hs] at h; exact .headerByte (.inr hs) h
  | stop0 => rw [hs] at h; cases h; exact .firstTail hs
  | stop1 => rw [hs] at h; cases h; exact .secondTail hs
  | pay =>
    rw [hs] at h
    by_cases hb : b = 0x7D#8
    case pos => subst hb; cases h; exact .payloadMarker hs
    case neg => rw [decodeByte_pay_of_ne hb] at h; exact .payloadByte (.inl hs) h
  | payEsc => rw [hs] at h; exact .payloadByte (.inr hs) h

/-! What does not end a frame appends nothing (R204). -/

theorem pushHdr_env (h : pushHdr v s = .next t) (ht : t.fd.state ≠ .hunt) : t.env = s.env := by
  obtain ⟨-, ⟨-, rfl⟩ | ⟨-, -, -, -, rfl⟩ | ⟨-, -, -, rfl⟩ | ⟨-, -, rfl⟩⟩ := pushHdr_next h
  · rfl
  · exact absurd rfl ht
  · rfl
  · rfl

theorem pushPay_env (h : pushPay v s = .next t) (ht : t.fd.state ≠ .hunt) : t.env = s.env := by
  obtain ⟨-, -, ⟨-, rfl⟩ | ⟨-, rfl⟩⟩ := pushPay_next h
  · exact absurd rfl ht
  · rfl

theorem frameByteStep_env (h : FrameByteStep b s t) (ht : t.fd.state ≠ .hunt) : t.env = s.env := by
  cases h with
  | headerByte _ h => exact pushHdr_env h ht
  | payloadByte _ h => exact pushPay_env h ht
  | secondTail => exact absurd rfl ht
  | headerMarker | firstTail | payloadMarker => rfl

/-! Every byte brings the frame closer to its end (R215). -/

theorem bytesLeft_le (f : Fd) : bytesLeft f ≤ 518 := by
  have := ptarget_le f.hdr
  unfold bytesLeft
  split <;> omega

theorem bytesLeft_pos (hi : FdInv f) (hst : f.state ≠ .hunt) : 0 < bytesLeft f := by
  cases hs : f.state with
  | hunt => exact absurd hs hst
  | pay =>
    obtain ⟨-, hlt, -⟩ := (fdInv_pay_iff (.inl hs)).1 hi
    simp only [bytesLeft, hs]
    omega
  | payEsc =>
    obtain ⟨-, hlt, -⟩ := (fdInv_pay_iff (.inr hs)).1 hi
    simp only [bytesLeft, hs]
    omega
  | hdr | hdrEsc | stop0 | stop1 => simp [bytesLeft, hs]

theorem pushHdr_bytesLeft (hst : s.fd.state = .hdr ∨ s.fd.state = .hdrEsc) (h : pushHdr v s = .next t) :
    bytesLeft t.fd < bytesLeft s.fd := by
  have hleft : 2 * (8 - s.fd.hdr.length) + 501 ≤ bytesLeft s.fd := by
    obtain hst | hst := hst <;> simp [bytesLeft, hst]
  have htarget := ptarget_le (s.fd.hdr ++ [v])
  refine lt_of_lt_of_le ?_ hleft
  obtain ⟨hl, ⟨-, rfl⟩ | ⟨-, -, -, -, rfl⟩ | ⟨-, -, -, rfl⟩ | ⟨-, -, rfl⟩⟩ := pushHdr_next h
  all_goals
    simp only [bytesLeft, storeHdr, State.setFdState_fd, State.setFd_fd, clearFrame_fd, Fd.reset_state,
      List.length_append, List.length_singleton]
    omega

theorem pushPay_bytesLeft (hst : s.fd.state = .pay ∨ s.fd.state = .payEsc) (h : pushPay v s = .next t) :
    bytesLeft t.fd < bytesLeft s.fd := by
  have hleft : 2 * (ptarget s.fd.hdr - s.fd.pay.length) - 1 ≤ bytesLeft s.fd := by
    obtain hst | hst := hst <;> simp [bytesLeft, hst]
  refine lt_of_lt_of_le ?_ hleft
  obtain ⟨-, hlt, ⟨-, rfl⟩ | ⟨-, rfl⟩⟩ := pushPay_next h
  all_goals
    simp only [bytesLeft, storePay, State.setFdState_fd, State.setFd_fd, clearFrame_fd, Fd.reset_state,
      List.length_append, List.length_singleton]
    omega

theorem frameByteStep_bytesLeft (hi : FdInv s.fd) (h : FrameByteStep b s t) : bytesLeft t.fd < bytesLeft s.fd := by
  cases h with
  | headerByte hst h => exact pushHdr_bytesLeft hst h
  | payloadByte hst h => exact pushPay_bytesLeft hst h
  | payloadMarker hst =>
    obtain ⟨-, hlt, -⟩ := (fdInv_pay_iff (.inl hst)).1 hi
    simp only [bytesLeft, hst, State.setFdState_fd]
    omega
  | headerMarker hst | firstTail hst | secondTail hst => simp [bytesLeft, hst]

/-- A step that takes a byte of a frame answers, keeps FD's invariant and brings the frame closer to its end. -/
theorem step_frameByte (hi : FdInv s.fd) (hhunt : s.fd.state ≠ .hunt) (hp : s.env.pending = traceRx b :: rest) :
    ∃ t, step s = .next t ∧ FdInv t.fd ∧ t.env.pending = rest ∧ bytesLeft t.fd < bytesLeft s.fd := by
  have hi' : FdInv (s.setPending rest).fd := hi
  have hsel : (decodeByte s.fd.state b).selectedIn (s.setPending rest).fd.state = true := decodeByte_selectedIn s.fd.state b
  obtain ⟨t, ht⟩ := exec_answers_of_fd (unitOf_decodeByte s.fd.state b) hsel hi'
  obtain ⟨hpend, -⟩ := unitsArePrivate _ _ t ht
  have hbyte : FrameByteStep b (s.setPending rest) t := frameByteStep_of_exec hhunt ht
  have hlt := frameByteStep_bytesLeft hi' hbyte
  exact ⟨t, (step_traceRx hp).trans ht, exec_keeps_fdInv hsel hi' ht, hpend, hlt⟩

/-- FD is back in HUNT once as many bytes as `bytesLeft` have been presented. -/
theorem run_until_hunt {bs : List Byte} (hi : FdInv s.fd) (hle : bytesLeft s.fd ≤ bs.length)
    (hp : s.env.pending = traceRxs bs) : ∃ k t, k ≤ bs.length ∧ RunsTo k s t ∧ t.fd.state = .hunt := by
  induction bs generalizing s with
  | nil =>
    by_contra hnot
    exact absurd (bytesLeft_pos hi fun hhunt => hnot ⟨0, s, le_rfl, run_zero s, hhunt⟩) (Nat.not_lt.2 hle)
  | cons b bs ih =>
    by_cases hhunt : s.fd.state = .hunt
    case pos => exact ⟨0, s, Nat.zero_le _, run_zero s, hhunt⟩
    case neg =>
      obtain ⟨t, ht, hi', hpend, hlt⟩ := step_frameByte hi hhunt hp
      obtain ⟨k, u, hk, hrun, hu⟩ := ih hi' (Nat.le_of_lt_succ (hlt.trans_le hle)) hpend
      exact ⟨k + 1, u, Nat.succ_le_succ hk, run_succ ht hrun, hu⟩

/-- The first tail byte of a stop frame is read whatever it is (R193). -/
theorem exec_decodeByte_of_stop0 (hst : s.fd.state = .stop0) (b : Byte) :
    exec (decodeByte s.fd.state b) s = .next (s.setFdState .stop1) := by
  rw [hst]
  rfl

/-- The two tail bytes of a stop frame end it whatever they are (R193, R195). -/
theorem run_stopTail {b₀ b₁ : Byte} (hst : s.fd.state = .stop0)
    (hp : s.env.pending = traceRx b₀ :: traceRx b₁ :: rest) :
    RunsTo 2 s (clearFrame (((s.setPending rest).addChan (chanWord (chanId b₁))).addRes 0xC00#12)) :=
  run_traceRx hp (exec_decodeByte_of_stop0 (s := s.setPending (traceRx b₁ :: rest)) hst b₀)
    (run_traceRx (s := (s.setPending _).setFdState .stop1) rfl rfl (run_zero _))

end FrameByte

/-- Settles O45: the byte takes a step inside the frame, and one that does not end it leaves the environment's queues. -/
theorem noEarlyExposure : Obligations.NoEarlyExposure := by
  intro s t b rest hp hhunt _ h ht
  rw [step_traceRx hp] at h
  rw [frameByteStep_env (frameByteStep_of_exec (s := s.setPending rest) hhunt h) ht]
  exact ⟨rfl, rfl, rfl⟩

/-- Settles O46. -/
theorem stopFrameEndsAfterTwoBytes : Obligations.StopFrameEndsAfterTwoBytes := fun s b₀ b₁ rest hst hp =>
  have hfirst := exec_decodeByte_of_stop0 (s := s.setPending (traceRx b₁ :: rest)) hst b₀
  ⟨_, run_traceRx hp hfirst (run_zero _), rfl, rfl, run_stopTail hst hp⟩

/-- Settles O47: no more than 518 bytes are ever left of a frame. -/
theorem everyFrameEndsWithin518Bytes : Obligations.EveryFrameEndsWithin518Bytes := by
  intro s bs hi _ hlen hp
  rw [← hlen]
  exact run_until_hunt hi (hlen.symm ▸ bytesLeft_le s.fd) hp

/-! ### Whole frames -/

/-- FD after the delimiter and the recovered bytes `bs` of a frame whose header is not yet, or just, complete, or whose payload
goes on; `esc` says whether an escape marker is pending (R35, R37). -/
def Fd.collecting (esc : Bool) (bs : List Byte) : Fd :=
  { state := if bs.length < 8 then (if esc then .hdrEsc else .hdr) else (if esc then .payEsc else .pay)
    hdr := bs.take 8
    pay := bs.drop 8 }

/-- Where FD stores the recovered byte after `bs`. -/
def pushByte (bs : List Byte) (v : Byte) (s : State) : Result := if bs.length < 8 then pushHdr v s else pushPay v s

/-- FD collects the recovered bytes `frame` one by one, and storing the last of them has the effect `fin`. -/
def Collects (frame : List Byte) (fin : State → State) : Prop :=
  ∀ (s : State) (esc : Bool) (bs : List Byte) (v : Byte) (more : List Byte), bs ++ v :: more = frame →
    pushByte bs v (s.setFd (Fd.collecting esc bs)) =
      .next (if more = [] then fin s else s.setFd (Fd.collecting false (bs ++ [v])))

section Collecting

variable {s u : State} {b v : Byte} {bs hdr pay frame : List Byte} {fin : State → State}

theorem collecting_of_lt (esc : Bool) (h : bs.length < 8) :
    Fd.collecting esc bs = { state := if esc then .hdrEsc else .hdr, hdr := bs, pay := [] } := by
  rw [Fd.collecting, if_pos h, List.take_of_length_le h.le, List.drop_of_length_le h.le]

theorem collecting_append (esc : Bool) (h8 : hdr.length = 8) (pay : List Byte) :
    Fd.collecting esc (hdr ++ pay) = { state := if esc then .payEsc else .pay, hdr := hdr, pay := pay } := by
  have hge : ¬ (hdr ++ pay).length < 8 := by rw [List.length_append]; omega
  rw [Fd.collecting, if_neg hge, List.take_left' h8, List.drop_left' h8]

/-! The operation that a raw byte selects stores the byte it stands for (R167). -/

theorem exec_collecting_marker (s : State) (bs : List Byte) :
    exec (decodeByte (Fd.collecting false bs).state 0x7D#8) (s.setFd (Fd.collecting false bs)) =
      .next (s.setFd (Fd.collecting true bs)) := by
  by_cases h : bs.length < 8 <;> simp only [Fd.collecting, h] <;> rfl

theorem exec_collecting_literal (hb : b ≠ 0x7D#8) (s : State) (bs : List Byte) :
    exec (decodeByte (Fd.collecting false bs).state b) s = pushByte bs b s := by
  by_cases h : bs.length < 8
  · simp only [Fd.collecting, pushByte, h]
    exact congrArg (exec · s) (decodeByte_hdr_of_ne hb)
  · simp only [Fd.collecting, pushByte, h]
    exact congrArg (exec · s) (decodeByte_pay_of_ne hb)

theorem exec_collecting_follower (b : Byte) (s : State) (bs : List Byte) :
    exec (decodeByte (Fd.collecting true bs).state b) s = pushByte bs (unesc1 b) s := by
  by_cases h : bs.length < 8 <;> simp only [Fd.collecting, pushByte, h] <;> rfl

/-- A raw sequence that recovers nothing and leaves no marker pending is empty. -/
theorem eq_nil_of_unescapeFrom_eq_nil {w : List Byte} (h : unescapeFrom false w = [])
    (hend : endsPending false w = false) : w = [] := by
  cases w with
  | nil => rfl
  | cons b w =>
    by_cases hb : b = 0x7D#8
    case neg =>
      rw [unescapeFrom_literal hb] at h
      cases h
    case pos =>
      subst hb
      cases w with
      | nil => cases hend
      | cons f w => cases h

/-- A raw byte that stands for the recovered byte `v`, then the run of the raw bytes after it, where some are left. -/
theorem run_collecting_store (hf : Collects frame fin) {rest : List Ports} {w : List Byte} {esc : Bool}
    (hexec : ∀ t, exec (decodeByte (Fd.collecting esc bs).state b) t = pushByte bs v t)
    (hw : bs ++ v :: unescapeFrom false w = frame) (hend : endsPending false w = false)
    (hrest : unescapeFrom false w ≠ [] →
      RunsTo w.length ((s.setPending (traceRxs w ++ rest)).setFd (Fd.collecting false (bs ++ [v]))) (fin (s.setPending rest))) :
    RunsTo (w.length + 1) ((s.setPending (traceRxs (b :: w) ++ rest)).setFd (Fd.collecting esc bs))
      (fin (s.setPending rest)) := by
  have hpush := hf (s.setPending (traceRxs w ++ rest)) esc bs v _ hw
  refine run_traceRx (b := b) rfl ((hexec _).trans hpush) ?_
  by_cases hlast : unescapeFrom false w = []
  case pos =>
    rw [if_pos hlast, eq_nil_of_unescapeFrom_eq_nil hlast hend]
    exact run_zero _
  case neg =>
    rw [if_neg hlast]
    exact hrest hlast

/-- Raw bytes that unescape to what is left of a frame make FD collect it, one step for each raw byte (R167, R210). -/
theorem run_collecting (hf : Collects frame fin) (rest : List Ports) {w : List Byte} {esc : Bool}
    (hw : bs ++ unescapeFrom esc w = frame) (hne : unescapeFrom esc w ≠ []) (hend : endsPending esc w = false) :
    RunsTo w.length ((s.setPending (traceRxs w ++ rest)).setFd (Fd.collecting esc bs)) (fin (s.setPending rest)) := by
  induction w generalizing s bs esc with
  | nil => exact absurd rfl hne
  | cons b w ih =>
    cases esc with
    | true =>
      exact run_collecting_store hf (exec_collecting_follower b · bs) hw hend
        fun hmore => ih (by rw [← hw, List.append_assoc]; rfl) hmore hend
    | false =>
      by_cases hb : b = 0x7D#8
      case pos =>
        subst hb
        exact run_traceRx rfl (exec_collecting_marker (s.setPending (traceRxs w ++ rest)) bs) (ih hw hne hend)
      case neg =>
        rw [unescapeFrom_literal hb] at hw
        rw [endsPending_literal hb] at hend
        exact run_collecting_store hf (exec_collecting_literal hb · bs) hw hend
          fun hmore => ih (by rw [← hw, List.append_assoc]; rfl) hmore hend

/-- A header byte begins a stop frame's tail, ends a frame without payload, or leaves FD collecting (R181). -/
theorem pushByte_of_lt (esc : Bool) (h : bs.length < 8) : pushByte bs v (s.setFd (Fd.collecting esc bs)) = .next (
    if isStop (bs ++ [v]) = true then s.setFd { state := .stop0, hdr := bs ++ [v], pay := [] }
    else if bs.length = 7 ∧ ptarget (bs ++ [v]) = 0 then s.delivered (bs ++ [v]) []
    else s.setFd (Fd.collecting false (bs ++ [v]))) := by
  have hlen : (bs ++ [v]).length = bs.length + 1 := List.length_append
  rw [pushByte, if_pos h, collecting_of_lt esc h, pushHdr_of_room (hdr := bs) rfl (Nat.le_of_lt_succ h) rfl, ite_and]
  simp only [State.setFd_setFd, State.setFd_delivered]
  by_cases h7 : bs.length = 7
  case pos =>
    have hfull : Fd.collecting false (bs ++ [v]) = { state := .pay, hdr := bs ++ [v], pay := [] } := by
      simpa using collecting_append false (hlen.trans (congrArg _ h7)) []
    rw [if_pos h7, if_pos h7, hfull]
  case neg =>
    rw [if_neg h7, if_neg h7, collecting_of_lt false (by omega)]
    rfl

/-- A byte of a full frame's header (R181): it is the last of the frame where it completes the header and no payload follows. -/
theorem pushByte_header {left : List Byte} (esc : Bool) (h8 : (bs ++ v :: left).length = 8)
    (hstop : (bs ++ v :: left).getD 2 0 ≠ 80#8) (hpay : pay.length = ptarget (bs ++ v :: left)) :
    pushByte bs v (s.setFd (Fd.collecting esc bs)) = .next (
      if left ++ pay = [] then s.delivered (bs ++ v :: left) pay else s.setFd (Fd.collecting false (bs ++ [v]))) := by
  have hlen : bs.length + left.length = 7 := by
    rw [List.length_append, List.length_cons] at h8
    omega
  rw [List.append_cons] at hstop hpay ⊢
  have hgoes : ¬ isStop (bs ++ [v]) = true := by
    rw [isStop_iff]
    rintro ⟨h3, h80⟩
    exact hstop ((List.getD_append _ _ _ _ (by omega)).trans h80)
  rw [pushByte_of_lt esc (by omega), if_neg hgoes]
  by_cases hlast : left ++ pay = []
  case pos =>
    obtain ⟨rfl, rfl⟩ := List.append_eq_nil_iff.1 hlast
    rw [List.append_nil] at hpay ⊢
    rw [if_pos ⟨hlen, hpay.symm⟩, if_pos rfl, List.append_nil]
  case neg =>
    have hmore : ¬ (bs.length = 7 ∧ ptarget (bs ++ [v]) = 0) := by
      rintro ⟨h7, h0⟩
      obtain rfl : left = [] := List.eq_nil_of_length_eq_zero (by omega)
      rw [List.append_nil, h0] at hpay
      exact hlast (List.eq_nil_of_length_eq_zero hpay)
    rw [if_neg hmore, if_neg hlast]

/-- A byte of a full frame's payload (R182). -/
theorem pushByte_payload {more : List Byte} (esc : Bool) (h8 : hdr.length = 8)
    (hpay : (pay ++ v :: more).length = ptarget hdr) :
    pushByte (hdr ++ pay) v (s.setFd (Fd.collecting esc (hdr ++ pay))) = .next (
      if more = [] then s.delivered hdr (pay ++ v :: more) else s.setFd (Fd.collecting false (hdr ++ pay ++ [v]))) := by
  have hge : ¬ (hdr ++ pay).length < 8 := by rw [List.length_append]; omega
  rw [List.length_append, List.length_cons] at hpay
  have hlast : pay.length + 1 = ptarget hdr ↔ more = [] := by
    rw [← List.length_eq_zero_iff]
    omega
  have hroom : pay.length < ptarget hdr := by omega
  rw [pushByte, if_neg hge, collecting_append esc h8, pushPay_of_room h8 hroom, List.append_assoc,
    collecting_append false h8]
  by_cases hend : more = []
  case pos =>
    subst hend
    rw [if_pos rfl]
    exact congrArg _ (if_pos (hlast.2 rfl))
  case neg =>
    rw [if_neg hend]
    exact congrArg _ (if_neg (mt hlast.1 hend))

/-- FD collects a full frame and delivers it with its last byte (R183). -/
theorem collects_fullFrame (h8 : hdr.length = 8) (hstop : hdr.getD 2 0 ≠ 80#8) (hpay : pay.length = ptarget hdr) :
    Collects (hdr ++ pay) (·.delivered hdr pay) := by
  intro s esc bs v more hf
  obtain ⟨left, rfl, hv⟩ | ⟨p, rfl, rfl⟩ := List.append_eq_append_iff.1 hf
  case inr => exact pushByte_payload esc h8 hpay
  case inl =>
    cases left with
    | nil =>
      obtain rfl : v :: more = pay := hv
      rw [List.append_nil] at h8 hpay
      simpa using pushByte_payload (s := s) (pay := []) esc h8 hpay
    | cons w left =>
      cases hv
      exact pushByte_header esc h8 hstop hpay

/-- FD collects the header of a stop frame and leaves it for its tail with the stop value (R181). -/
theorem collects_stopHeader (h₀ h₁ : Byte) :
    Collects [h₀, h₁, 80#8] (·.setFd { state := .stop0, hdr := [h₀, h₁, 80#8], pay := [] }) := by
  intro s esc bs v more hf
  have hlen : bs.length + (more.length + 1) = 3 := by simpa using congrArg List.length hf
  rw [pushByte_of_lt esc (by omega)]
  by_cases hend : more = []
  case pos =>
    subst hend
    rw [hf, if_pos ((isStop_iff _).2 ⟨rfl, rfl⟩), if_pos rfl]
  case neg =>
    have hpos := List.length_pos_iff.2 hend
    have hstop : ¬ isStop (bs ++ [v]) = true := by
      rw [isStop_iff, List.length_append, List.length_singleton]
      omega
    rw [if_neg hstop, if_neg (by omega), if_neg hend]

/-- A delimiter in HUNT begins to collect a frame (R185). -/
theorem run_traceRx_delim {k : Nat} {rest : List Ports} (hfd : s.fd = Fd.reset)
    (hp : s.env.pending = traceRx 0x7E#8 :: rest)
    (h : RunsTo k ((s.setPending rest).setFd (Fd.collecting false [])) u) : RunsTo (k + 1) s u := by
  refine run_traceRx (t := (s.setPending rest).setFdState .hdr) hp (by rw [hfd]; rfl) ?_
  rw [State.setFdState, State.setPending_fd, hfd]
  exact h

end Collecting

/-- Settles O48: the delimiter, then the raw bytes of header and payload, the last of which delivers the frame. -/
theorem fullFrameIsDecoded : Obligations.FullFrameIsDecoded := by
  intro s w hdr pay rest hfd hw hend h8 hstop hpay hp
  have hne : unescapeFrom false w ≠ [] := by
    intro hnil
    rw [unescape, hnil] at hw
    obtain ⟨rfl, -⟩ := List.append_eq_nil_iff.1 hw.symm
    cases h8
  have hcollect := run_collecting (s := s) (bs := []) (collects_fullFrame h8 hstop hpay) rest hw hne hend
  have hreset : Fd.reset = s.fd := hfd.symm
  rw [State.delivered, hreset] at hcollect
  exact run_traceRx_delim hfd hp hcollect

/-- Settles O49: the delimiter, the raw bytes of the stop header, and the two tail bytes. -/
theorem stopFrameIsDecoded : Obligations.StopFrameIsDecoded := by
  intro s w h₀ h₁ t₀ t₁ rest hfd hw hend hp
  have hne : unescapeFrom false w ≠ [] := by
    intro hnil
    rw [unescape, hnil] at hw
    cases hw
  have hp' : s.env.pending = traceRx 0x7E#8 :: (traceRxs w ++ traceRx t₀ :: traceRx t₁ :: rest) := by
    rw [hp]
    simp [traceRxs]
  have hcollect := run_collecting (s := s) (bs := []) (collects_stopHeader h₀ h₁)
    (traceRx t₀ :: traceRx t₁ :: rest) hw hne hend
  have hrun := run_add (run_traceRx_delim hfd hp' hcollect) (run_stopTail rfl rfl)
  have hreset : Fd.reset = s.fd := hfd.symm
  rw [clearFrame, hreset] at hrun
  exact hrun

end Sys2Proof.Machine
end

section
/-! SUPPORT. Proof of the statement about the stream session (45_stream_session_contract.md): what the walk over RESQ takes for
one record of each code, and that queues which fit together are walked to their ends. -/

namespace Sys2Proof.Machine

section Pairing

variable {w : BitVec 12} {ws : List (BitVec 12)} {ds : List (BitVec 16)} {cs : List (BitVec 9)}

/-! ### The walk, code by code -/

/-- An idle record accounts for no entry (R225). -/
theorem pairUp_cons_idle (h : (resOfWord w).code = .idle) :
    pairUp (w :: ws) ds cs = (pairUp ws ds cs).map (.idle :: ·) := by
  simp only [pairUp, h]

/-- A stray record accounts for one DATAQ entry with no channel (R225). -/
theorem pairUp_cons_stray (h : (resOfWord w).code = .stray) (d : BitVec 16) :
    pairUp (w :: ws) (d :: ds) cs = (pairUp ws ds cs).map (.stray d.toNat :: ·) := by
  simp only [pairUp, h]

/-- A stop record accounts for one CHANQ entry (R43, R225). -/
theorem pairUp_cons_stop (h : (resOfWord w).code = .stop) (c : BitVec 9) :
    pairUp (w :: ws) ds (c :: cs) = (pairUp ws ds cs).map (.stop c.toInt :: ·) := by
  simp only [pairUp, h]

/-- A frame record accounts for one CHANQ entry and for as many samples as its field `n` says (R225). -/
theorem pairUp_cons_frame {samples : List (BitVec 16)} (h : (resOfWord w).code = .frame)
    (hn : samples.length = (resOfWord w).n) (c : BitVec 9) :
    pairUp (w :: ws) (samples ++ ds) (c :: cs) = (pairUp ws ds cs).map
      (.frame (resOfWord w).cksOk (resOfWord w).oddLen (resOfWord w).lenUf c.toInt (samples.map BitVec.toInt) :: ·) := by
  have hroom : (resOfWord w).n ≤ (samples ++ ds).length := by
    rw [List.length_append, hn]
    exact Nat.le_add_right _ _
  simp only [pairUp, h, if_pos hroom, List.take_left' hn, List.drop_left' hn]

/-! ### The walk over queues that fit together -/

/-- The walk takes from the heads of DATAQ and CHANQ what the first record accounts for, and makes one item of it. -/
theorem pairUp_cons_of_accounts (ha : Accounts w ds cs) : ∃ item : StreamItem, ∀ ws' ds' cs',
    pairUp (w :: ws') (ds ++ ds') (cs ++ cs') = (pairUp ws' ds' cs').map (item :: ·) := by
  obtain ⟨hlegal, hds, hcs, -⟩ := ha
  obtain rfl | rfl | rfl | ⟨hcode, -, -⟩ := hlegal
  case inl =>
    obtain rfl := List.length_eq_zero_iff.1 hds
    obtain rfl := List.length_eq_zero_iff.1 hcs
    exact ⟨_, fun _ _ _ => pairUp_cons_idle rfl⟩
  case inr.inl =>
    obtain ⟨d, rfl⟩ := List.length_eq_one_iff.1 hds
    obtain rfl := List.length_eq_zero_iff.1 hcs
    exact ⟨_, fun _ _ _ => pairUp_cons_stray rfl d⟩
  case inr.inr.inl =>
    obtain rfl := List.length_eq_zero_iff.1 hds
    obtain ⟨c, rfl⟩ := List.length_eq_one_iff.1 hcs
    exact ⟨_, fun _ _ _ => pairUp_cons_stop rfl c⟩
  case inr.inr.inr =>
    have hone : [w].countP carriesChannel = 1 := by simp [carriesChannel, hcode]
    obtain ⟨c, rfl⟩ := List.length_eq_one_iff.1 (hcs.trans hone)
    exact ⟨_, fun _ _ _ => pairUp_cons_frame hcode hds c⟩

/-- Queues that fit a first record and the rest begin with what that record accounts for; what follows fits the rest. -/
theorem exists_accounts_append (hlegal : LegalRecord w)
    (hdata : ds.length = ((w :: ws).map fun w => (resOfWord w).n).sum)
    (hchan : cs.length = (w :: ws).countP carriesChannel) (hrange : ∀ c ∈ cs, -1 ≤ c.toInt ∧ c.toInt ≤ 254) :
    ∃ ds₁ ds₂ cs₁ cs₂, ds = ds₁ ++ ds₂ ∧ cs = cs₁ ++ cs₂ ∧ Accounts w ds₁ cs₁ ∧
      ds₂.length = (ws.map fun w => (resOfWord w).n).sum ∧ cs₂.length = ws.countP carriesChannel ∧
      ∀ c ∈ cs₂, -1 ≤ c.toInt ∧ c.toInt ≤ 254 := by
  rw [List.map_cons, List.sum_cons] at hdata
  rw [← List.singleton_append, List.countP_append] at hchan
  have hds : (ds.take (resOfWord w).n).length = (resOfWord w).n :=
    List.length_take_of_le (hdata ▸ Nat.le_add_right _ _)
  have hcs : (cs.take ([w].countP carriesChannel)).length = [w].countP carriesChannel :=
    List.length_take_of_le (hchan ▸ Nat.le_add_right _ _)
  refine ⟨_, _, _, _, (List.take_append_drop _ ds).symm, (List.take_append_drop _ cs).symm,
    ⟨hlegal, hds, hcs, fun c hc => hrange c (List.mem_of_mem_take hc)⟩, ?_, ?_,
    fun c hc => hrange c (List.mem_of_mem_drop hc)⟩
  · rw [List.length_drop, hdata, Nat.add_sub_cancel_left]
  · rw [List.length_drop, hchan, Nat.add_sub_cancel_left]

/-- Queues that fit together are walked to their ends, with one item for each record. -/
theorem pairUp_succeeds (hlegal : ∀ w ∈ ws, LegalRecord w)
    (hdata : ds.length = (ws.map fun w => (resOfWord w).n).sum) (hchan : cs.length = ws.countP carriesChannel)
    (hrange : ∀ c ∈ cs, -1 ≤ c.toInt ∧ c.toInt ≤ 254) :
    ∃ items : List StreamItem, pairUp ws ds cs = some items ∧ items.length = ws.length := by
  induction ws generalizing ds cs with
  | nil =>
    obtain rfl := List.length_eq_zero_iff.1 hdata
    obtain rfl := List.length_eq_zero_iff.1 hchan
    exact ⟨[], rfl, rfl⟩
  | cons w ws ih =>
    obtain ⟨hw, hws⟩ := List.forall_mem_cons.1 hlegal
    obtain ⟨ds₁, ds₂, cs₁, cs₂, rfl, rfl, ha, hd, hc, hr⟩ := exists_accounts_append hw hdata hchan hrange
    obtain ⟨item, hitem⟩ := pairUp_cons_of_accounts ha
    obtain ⟨items, hitems, hlen⟩ := ih hws hd hc hr
    exact ⟨item :: items, by rw [hitem, hitems, Option.map_some], congrArg Nat.succ hlen⟩

end Pairing

/-- Settles O59, by induction on RESQ: each record takes exactly the entries it accounts for off DATAQ and CHANQ. -/
theorem streamQueuesPairUp : Obligations.StreamQueuesPairUp := by
  intro e hi
  obtain ⟨hlegal, hdata, hchan, hrange⟩ := hi
  exact pairUp_succeeds hlegal hdata hchan hrange

end Sys2Proof.Machine
end

section
/-! SUPPORT. Proofs of the statements about reporting conditions (60_exceptions.md): a step reports at most one condition, and it
leaves the unit that reports it as the table of R240 says. -/

namespace Sys2Proof.Machine

/-- The three record queues hold the same records (R46, R47, R89). -/
def SameRecords (s t : State) : Prop :=
  t.env.resq = s.env.resq ∧ t.env.asmrq = s.env.asmrq ∧ t.env.verq = s.env.verq

/-- FD before and after it reports a result code: the RESQ rows of R240's table. -/
def FdReady (f f' : Fd) : ResCode → Prop
  | .idle => f' = f
  | .stray => f.state = .hunt ∧ f' = f
  | .frame | .stop => f' = Fd.reset

/-- What the unit that reports a condition is left in: R240's table. A result's code is read from its word, as the environment
reads it. -/
def LeavesReady (s t : State) : Report → Prop
  | .result r => FdReady s.fd t.fd (resOfWord (resWord r)).code
  | .assembled .overflow => t.asm.phase = .load ∧ t.asm.buf = [] ∧ t.asm.sum = 0 ∧ t.asm.ovf = false
  | .assembled .built => t.asm.phase = .emit ∧ t.asm.idx = 0
  | .verdict _ => t.ver = Ver.reset

/-- What the block can report from `s` to `t`: nothing, or one condition, whose unit is left ready. -/
inductive ReportStep (s t : State) : Prop
  | silent (h : SameRecords s t)
  | reports (r : Report) (h : SameRecords (s.report r) t) (hready : LeavesReady s t r)

section Reporting

variable {i : Instr} {s t u : State} {r : Report} {v b : Byte}

/-! ### What an operation reports -/

/-- A poll without a byte reports the idle record and changes nothing else (R187, R190). -/
theorem addRes_idle_reportStep (s : State) : ReportStep s (s.addRes 0x000) :=
  .reports (.result (plainRecord .idle 0)) ⟨rfl, rfl, rfl⟩ rfl

/-- A completed frame reports its code-1 record and is cleared (R183, R184). -/
theorem deliverFrame_reportStep (hu : u.env = s.env) : ReportStep s (clearFrame (deliverFrame u)) := by
  have hn : (frameRecord u.fd.hdr u.fd.pay).n ≤ 127 := (frameRecord_n_le _ _).trans (by decide)
  refine .reports (.result (frameRecord u.fd.hdr u.fd.pay)) ?records ?ready
  case records => simp [SameRecords, deliverFrame_eq, hu]
  case ready =>
    rw [LeavesReady, resOfWord_resWord hn]
    rfl

/-- `push_hdr` reports only where it completes a frame (R181). -/
theorem pushHdr_reportStep (h : pushHdr v s = .next t) : ReportStep s t := by
  obtain ⟨-, ⟨-, rfl⟩ | ⟨-, -, -, -, rfl⟩ | ⟨-, -, -, rfl⟩ | ⟨-, -, rfl⟩⟩ := pushHdr_next h
  · exact .silent ⟨rfl, rfl, rfl⟩
  · exact deliverFrame_reportStep rfl
  · exact .silent ⟨rfl, rfl, rfl⟩
  · exact .silent ⟨rfl, rfl, rfl⟩

/-- `push_pay` reports only where it completes a frame (R182). -/
theorem pushPay_reportStep (h : pushPay v s = .next t) : ReportStep s t := by
  obtain ⟨-, -, ⟨-, rfl⟩ | ⟨-, rfl⟩⟩ := pushPay_next h
  · exact deliverFrame_reportStep rfl
  · exact .silent ⟨rfl, rfl, rfl⟩

/-- ASM.PUSH takes the byte or is held, and reports nothing (R131, R135). -/
theorem exec_asmPush_reportStep (h : exec (.asmPush b) s = .next t) : ReportStep s t := by
  cases hp : s.asm.phase with
  | load => rw [exec_asmPush_of_load b hp] at h; cases h; exact .silent ⟨rfl, rfl, rfl⟩
  | emit => rw [exec_asmPush_of_emit b hp] at h; cases h; exact .silent ⟨rfl, rfl, rfl⟩

/-- ASM.PUSHL reports in LOAD which of the two ends the command had; in EMIT it is held (R132, R135). -/
theorem exec_asmPushL_reportStep (h : exec (.asmPushL b) s = .next t) : ReportStep s t := by
  cases hp : s.asm.phase with
  | load =>
    cases ho : (asmTake s.asm b).ovf with
    | true =>
      rw [exec_asmPushL_of_ovf b hp ho] at h
      cases h
      exact .reports (.assembled .overflow) ⟨rfl, rfl, rfl⟩ ⟨(asmTake_phase s.asm b).trans hp, rfl, rfl, rfl⟩
    | false =>
      rw [exec_asmPushL_of_not_ovf b hp ho] at h
      cases h
      exact .reports (.assembled .built) ⟨rfl, rfl, rfl⟩ ⟨rfl, rfl⟩
  | emit => rw [exec_asmPushL_of_emit b hp] at h; cases h; exact .silent ⟨rfl, rfl, rfl⟩

/-- ASM.POP emits a packet byte or is held, and reports nothing (R134, R135). -/
theorem execAsmPop_reportStep (h : execAsmPop s = .next t) : ReportStep s t := by
  unfold execAsmPop at h
  split at h
  · cases h; exact .silent ⟨rfl, rfl, rfl⟩
  · split at h
    · cases h; exact .silent ⟨rfl, rfl, rfl⟩
    · cases h

/-- An operation run in a state that selects it reports at most one condition and leaves its unit ready (R239, R240). -/
theorem exec_reportStep (hsel : i.selectedIn s.fd.state = true) (h : exec i s = .next t) : ReportStep s t := by
  cases i with
  | fdHuntNone | fdHdrNone | fdHdrEscNone | fdStop0None | fdStop1None | fdPayNone | fdPayEscNone =>
    cases h
    exact addRes_idle_reportStep s
  | fdHuntStray b =>
    cases h
    exact .reports (.result (plainRecord .stray 1)) ⟨rfl, rfl, rfl⟩ ⟨eq_of_beq hsel, rfl⟩
  | fdStop1Any b =>
    cases h
    exact .reports (.result (plainRecord .stop 0)) ⟨rfl, rfl, rfl⟩ rfl
  | fdHdrLit b | fdHdrEscAny b => exact pushHdr_reportStep h
  | fdPayLit b | fdPayEscAny b => exact pushPay_reportStep h
  | asmPush b => exact exec_asmPush_reportStep h
  | asmPushL b => exact exec_asmPushL_reportStep h
  | asmPop => exact execAsmPop_reportStep h
  | verPushL b =>
    cases h
    exact .reports (.verdict (verVerdict (verTake s.ver b))) ⟨rfl, rfl, rfl⟩ rfl
  | fdHuntSof | fdHdrEsc | fdStop0Any b | fdPayEsc | fdAbort | verPush b | cksClear | cksAdd b | reset =>
    cases h
    exact .silent ⟨rfl, rfl, rfl⟩

/-! ### What a step reports -/

/-- Taking presentations reports nothing and touches no unit. -/
theorem reportStep_of_setPending {ps : List Ports} (h : ReportStep (s.setPending ps) t) : ReportStep s t := by
  cases h with
  | silent h => exact .silent h
  | reports r h hready =>
    refine .reports r ?records ?ready
    case records => cases r <;> exact h
    case ready => cases r <;> exact hready

/-- A step reports at most one condition and leaves the reporting unit ready (R239, R240). -/
theorem step_reportStep (h : step s = .next t) : ReportStep s t := by
  obtain ⟨ps, rfl⟩ | ⟨e, ps, -, hx⟩ := step_next h
  · exact .silent ⟨rfl, rfl, rfl⟩
  · exact reportStep_of_setPending (exec_reportStep (s := s.setPending ps) (decode_selectedIn s.fd.state e) hx)

/-! ### Which condition a new record reports -/

/-- Only a verdict makes VERQ longer. -/
theorem reportStep_of_verq {x : Verdict} (h : ReportStep s t) (hq : t.env.verq = s.env.verq ++ [x]) :
    LeavesReady s t (.verdict x) := by
  obtain ⟨-, -, hver⟩ | ⟨r, ⟨-, -, hver⟩, hready⟩ := h
  · simp [hver] at hq
  · cases r with
    | verdict y =>
      obtain rfl : y = x := by simpa [hver] using hq
      exact hready
    | result y | assembled y => simp [hver] at hq

/-- Only the end of a command makes ASMRQ longer. -/
theorem reportStep_of_asmrq {x : AsmStatus} (h : ReportStep s t) (hq : t.env.asmrq = s.env.asmrq ++ [x]) :
    LeavesReady s t (.assembled x) := by
  obtain ⟨-, hasm, -⟩ | ⟨r, ⟨-, hasm, -⟩, hready⟩ := h
  · simp [hasm] at hq
  · cases r with
    | assembled y =>
      obtain rfl : y = x := by simpa [hasm] using hq
      exact hready
    | result y | verdict y => simp [hasm] at hq

/-- Only a result makes RESQ longer, and FD is ready by the code that its word carries. -/
theorem reportStep_of_resq {w : BitVec 12} (h : ReportStep s t) (hq : t.env.resq = s.env.resq ++ [w]) :
    FdReady s.fd t.fd (resOfWord w).code := by
  obtain ⟨hres, -, -⟩ | ⟨r, ⟨hres, -, -⟩, hready⟩ := h
  · simp [hres] at hq
  · cases r with
    | result y =>
      obtain rfl : resWord y = w := by simpa [hres] using hq
      exact hready
    | assembled y | verdict y => simp [hres] at hq

/-- FD is in its reset state after a frame or a stop frame, whichever of the two the code says. -/
theorem fdReady_of_ends {f f' : Fd} {c : ResCode} (h : FdReady f f' c) (hc : c = .frame ∨ c = .stop) : f' = Fd.reset := by
  obtain rfl | rfl := hc <;> exact h

/-- A report is one record, in one of the three queues (R230, R241). -/
theorem report_length (s : State) (r : Report) :
    (s.report r).env.resq.length + (s.report r).env.asmrq.length + (s.report r).env.verq.length =
      s.env.resq.length + s.env.asmrq.length + s.env.verq.length + 1 := by
  cases r <;> simp <;> omega

end Reporting

/-- Settles O41: a silent step leaves the three lengths, and a report makes one of them one longer. -/
theorem stepReportsAtMostOnce : Obligations.StepReportsAtMostOnce := by
  intro s t h
  obtain ⟨hres, hasm, hver⟩ | ⟨r, ⟨hres, hasm, hver⟩, -⟩ := step_reportStep h <;> rw [hres, hasm, hver]
  · exact Nat.le_succ _
  · exact (report_length s r).le

/-- Settles O42: each queue's new record names the condition reported, and with it the row of R240's table. -/
theorem reportLeavesTheUnitReady : Obligations.ReportLeavesTheUnitReady := by
  intro s t h
  have hstep := step_reportStep h
  refine ⟨fun _ => reportStep_of_verq hstep, reportStep_of_asmrq hstep, reportStep_of_asmrq hstep, fun w hq => ?result⟩
  case result =>
    have hready := reportStep_of_resq hstep hq
    exact ⟨fun hc => by rwa [hc] at hready, fun hc => by rwa [hc] at hready, fdReady_of_ends hready⟩

end Sys2Proof.Machine
end

section
/-! SUPPORT. Proof of the statement about the start of a session (70_reset_and_hazards.md): the abort that is presented first is
what the first step runs, and the presentations behind it carry no byte of the old session. -/

namespace Sys2Proof.Machine

variable {s : State}

/-- What the environment presents once the bytes still buffered for FD are discarded (R265, step 2). -/
def withoutFdEvents (ps : List Ports) : List Ports := ps.map fun p => { p with fdEv := none }

theorem fdEv_of_mem_withoutFdEvents {ps : List Ports} {p : Ports} (h : p ∈ withoutFdEvents ps) : p.fdEv = none := by
  obtain ⟨q, -, rfl⟩ := List.mem_map.mp h
  rfl

/-- A session starts with the abort, then what is left of the old presentations (R265, steps 2 and 3). -/
theorem startSession_eq (s : State) : s.startSession = s.setPending (traceAbort :: withoutFdEvents s.env.pending) := rfl

/-- An abort presented first is the event a step runs, in every state of FD (R12, R202). -/
theorem step_traceAbort {rest : List Ports} (hp : s.env.pending = traceAbort :: rest) :
    step s = .next ((s.setPending rest).setFd Fd.reset) := by
  rw [step_portsOf hp, decode_fdAbort]
  exact fdAbortClearsTheFrame.2 (s.setPending rest)

/-- The first step of a session, as one equation (R265). -/
theorem step_startSession (s : State) :
    step s.startSession = .next ((s.setPending (withoutFdEvents s.env.pending)).setFd Fd.reset) :=
  step_traceAbort (s := s.startSession) (by rw [startSession_eq, State.setPending_pending])

/-- Settles O60: the first step runs the abort, and what it leaves presented was cleared of FD's events before. -/
theorem sessionStartsClean : Obligations.SessionStartsClean := fun s =>
  ⟨_, step_startSession s, rfl, rfl, fun _ hp => fdEv_of_mem_withoutFdEvents hp, rfl, rfl, rfl, rfl⟩

end Sys2Proof.Machine
end
